-- ==== Sys2Proof/Word.lean ====
section
/-! DEFINITION. The value types of the unit: the 32-bit register word, the 8-bit character code, the decimal digit. -/

namespace Sys2Proof

/-- A register of the window, and a command word (R21, R70): 32 bits, unsigned. -/
abbrev Word := BitVec 32

/-- An input character: an 8-bit ASCII code (R13, R26). -/
abbrev Byte := BitVec 8

/-- A decimal digit 0..9. Every digit string of the spec (R11) is a list of these, leftmost digit first,
so a table of R40 to R43 is never asked for an index outside 0..9 (R44). -/
abbrev Digit := Fin 10

end Sys2Proof
end

