-- ==== Sys2Proof/Syntax.lean ====
section
/-! DEFINITION. The commands (one constructor per row of the opcode table), the symbologies, the accesses and
events that reach the unit from outside, and the spec's notation for host programs (R82, R83). -/

namespace Sys2Proof

/-- The eight command codes of R71. The command word has no operand field (R70), so no constructor has an
argument: every operand comes from CONFIG and IN_CHAR0..3 (R73). -/
inductive Instr where
  /-- OP = 0, R184 -/
  | nop
  /-- OP = 1, R127 -/
  | compute
  /-- OP = 2, R128 -/
  | validate
  /-- OP = 3, R141 -/
  | normalize
  /-- OP = 4, R161 -/
  | encode
  /-- OP = 5, R180 -/
  | run
  /-- OP = 6, R185 -/
  | reserved6
  /-- OP = 7, R185 -/
  | reserved7
  deriving DecidableEq, Repr

/-- The two symbologies (R3, R14). -/
inductive Symbology where
  | ean13
  | upca
  deriving DecidableEq, Repr

/-- How wide a bus access is. Only the 32-bit one has a meaning (R53). -/
inductive Width where
  | w8
  | w16
  | w32
  | w64
  deriving DecidableEq, Repr

/-- Where a host access goes: a byte offset in the register window, as the spec's `MemRead(off, 4)` and
`MemWrite(off, 4, v)` name it (R12), or a physical address of the platform (R52). -/
inductive BusAddr where
  | window (off : Nat)
  | physical (a : Nat)
  deriving DecidableEq, Repr

/-- One thing the world outside does to the unit (R6, R7, R230): one step of the host, or the platform's reset. -/
inductive HostInput where
  /-- A host write. `data` is what a 32-bit access presents (the other widths are refused, R53). -/
  | write (a : BusAddr) (width : Width) (data : Word)
  /-- A host read. -/
  | read (a : BusAddr) (width : Width)
  /-- The host's WAIT (R82): read STATUS, again and again until the value read has bit 0 = 0. -/
  | poll
  /-- The reset input (R230): not a command and not a host access. -/
  | reset
  deriving DecidableEq, Repr

/-- Host statements (R82) and pseudo-statements (R83). -/
inductive HostStmt where
  | sw (off : Nat) (imm : Word)
  | lw (off : Nat) (name : String)
  | wait
  | expect (name : String) (imm : Word)
  /-- `NOP`, `COMPUTE`, `VALIDATE`, `NORMALIZE`, `ENCODE`, `RUN` -/
  | cmd (op : Instr)
  /-- `CONFIG sym, L` -/
  | config (sym : Symbology) (len : Nat)
  /-- `LOADSTR "c0c1..."`, as its ASCII codes -/
  | loadStr (text : List Byte)
  /-- `DO op` -/
  | doCmd (op : Instr)
  | readAll
  deriving DecidableEq, Repr

end Sys2Proof
end

