-- ==== Sys2Proof/WellFormed.lean ====
section
/-! DEFINITION. Which commands, bus accesses and host statements are well formed. -/

namespace Sys2Proof

/-- Every command is well formed: the command word carries no operand, and each of the eight codes is a row
of R71 (R72: decoding is total). -/
def Instr.wf : Instr → Bool
  | .nop => true
  | .compute => true
  | .validate => true
  | .normalize => true
  | .encode => true
  | .run => true
  | .reserved6 => true
  | .reserved7 => true

/-- R53: an access has a meaning exactly when it is 32 bits wide and its offset is a multiple of 4. -/
def accessWf (width : Width) (off : Nat) : Bool :=
  width == .w32 && off % 4 == 0

/-- The commands that have a pseudo-statement of their own (R83): the reserved codes have none. -/
def Instr.hasStatement (i : Instr) : Bool :=
  i != .reserved6 && i != .reserved7

/-- R82, R83: `off` is a multiple of 4 inside the window, a CONFIG length fits IN_LEN (R74), a string fits the
sixteen character cells (R75), and only the six commands are written by name. -/
def HostStmt.wf : HostStmt → Bool
  | .sw off _ => off % 4 == 0 && decide (off < 64)
  | .lw off _ => off % 4 == 0 && decide (off < 64)
  | .wait => true
  | .expect _ _ => true
  | .cmd op => op.hasStatement
  | .config _ len => decide (len ≤ 255)
  | .loadStr text => decide (text.length ≤ 16)
  | .doCmd op => op.hasStatement
  | .readAll => true

end Sys2Proof
end

