-- ==== Sys2Proof/Decode.lean ====
section
/-! DEFINITION. Decoding a command word (R70 to R72) and, after it, encoding one. -/

namespace Sys2Proof

/-- The OP field of a command word: bits 2:0 (R70). -/
def opField (w : Word) : BitVec 3 :=
  w.extractLsb' 0 3

/-- The row of R71 for a code. -/
def Instr.ofOpcode (op : BitVec 3) : Instr :=
  match op.toNat with
  | 0 => .nop
  | 1 => .compute
  | 2 => .validate
  | 3 => .normalize
  | 4 => .encode
  | 5 => .run
  | 6 => .reserved6
  | _ => .reserved7

/-- R72: decoding is total, and bits 31:3 are never examined. -/
def decode (w : Word) : Instr :=
  Instr.ofOpcode (opField w)

/-- Why a string of bits is no command word. -/
inductive DecodeError where
  /-- R81: a command word is always exactly 32 bits; this one has more. -/
  | longerThanOneWord (nbits : Nat)
  deriving DecidableEq, Repr

/-- The command in `nbits` bits numbered as the opcode table numbers them; the bits above `nbits` are 0.
Every string of at most 32 bits decodes (R72); a longer one is rejected by name (R81). -/
def decodeBits (nbits w : Nat) : Except DecodeError Instr :=
  if nbits ≤ 32 then .ok (decode (BitVec.ofNat 32 (w % 2 ^ nbits)))
  else .error (.longerThanOneWord nbits)

/-- The instruction the decoder reads from the bits of an opcode-table row. -/
def decodeTableWord (nbits w : Nat) : Option Instr :=
  match decodeBits nbits w with
  | .ok i => some i
  | .error _ => none

/-- The code of a command (R71). -/
def Instr.opcode : Instr → BitVec 3
  | .nop => 0
  | .compute => 1
  | .validate => 2
  | .normalize => 3
  | .encode => 4
  | .run => 5
  | .reserved6 => 6
  | .reserved7 => 7

/-- A command word with any value in the ignored bits 31:3 (R70). -/
def encodeWith (ignored : BitVec 29) (i : Instr) : Word :=
  ignored ++ i.opcode

/-- The command word R83 writes for a command: the ignored bits are 0. -/
def encode (i : Instr) : Word :=
  encodeWith 0 i

/-- The `match` value of a command's row of the opcode table (mask 0x00000007, R72). -/
def tableMatch : Instr → Word
  | .nop => 0x00000000
  | .compute => 0x00000001
  | .validate => 0x00000002
  | .normalize => 0x00000003
  | .encode => 0x00000004
  | .run => 0x00000005
  | .reserved6 => 0x00000006
  | .reserved7 => 0x00000007

end Sys2Proof
end

