-- ==== Sys2Proof/Config.lean ====
section
/-! DEFINITION. The two OPEN parameters of R8, BASE and LATENCY: constants without a body, so that nothing can be
proved of their values and every statement holds whatever they are. -/

namespace Sys2Proof

/-- BASE / 64. R50: the window starts at BASE, a multiple of 64 that the platform fixes (OPEN).
Log entry 1. -/
opaque Config.baseBlock : Nat

/-- BASE, the physical address of the register window (R50). -/
def Config.base : Nat := 64 * Config.baseBlock

/-- LATENCY (R8, R105, R239; OPEN): how many host steps fall between the acceptance of the n-th command and its
completion. Any finite number, 0 included. Log entry 2. -/
opaque Config.latency : Nat → Nat

end Sys2Proof
end

