-- ==== Sys2Proof/Machine/State.lean ====
section
/-! DEFINITION. The state of the unit (R20 to R32), the reasons a step can stop, and the state after reset. -/

namespace Sys2Proof.Machine

/-- The result registers, which one completion writes together (R25, R27, R28, R109, R110). -/
structure Results where
  /-- RESULT.CHECK, bits 3:0 -/
  check : BitVec 4
  /-- RESULT.VALID, bit 4 -/
  valid : Bool
  /-- RESULT.OUT_LEN, bits 11:8 -/
  outLen : BitVec 4
  /-- ODIG[0..12], the cells of OUT_DIG0 and OUT_DIG1 -/
  odig : Vector (BitVec 4) 13
  /-- MODULE[0..102], the bits of MOD0..MOD3: bit i is MODULE[i], 1 a bar and 0 a space (R11, R28) -/
  modules : BitVec 103
  deriving DecidableEq, Repr

/-- The command latch (R32): the inputs of the accepted command. The host cannot read it. -/
structure Latch where
  /-- PEND_OP -/
  op : BitVec 3
  /-- PEND_SYM -/
  sym : Symbology
  /-- PEND_LEN -/
  len : BitVec 8
  /-- PEND_CHAR[0..15] -/
  chars : Vector Byte 16
  deriving DecidableEq, Repr

/-- Everything the spec gives the unit to remember (R20), field by field so that reserved bits, which are not
stored (R29), have no place here, and four fields of the model's own (the last four). -/
structure State where
  /-- CMD.OP (R22) -/
  op : BitVec 3
  /-- CONFIG.SYM, bit 0 (R23): 0 = EAN13, 1 = UPCA -/
  sym : Symbology
  /-- CONFIG.IN_LEN, bits 15:8 (R23) -/
  inLen : BitVec 8
  /-- STATUS.BUSY, bit 0 (R24) -/
  busy : Bool
  /-- STATUS.RVALID, bit 1 (R24) -/
  rvalid : Bool
  /-- STATUS.ERR, bits 7:4 (R24) -/
  err : BitVec 4
  /-- CHAR[0..15], the cells of IN_CHAR0..IN_CHAR3 (R26) -/
  chars : Vector Byte 16
  /-- RESULT, OUT_DIG0..1 and MOD0..3 -/
  results : Results
  /-- PEND_OP, PEND_SYM, PEND_LEN, PEND_CHAR (R32) -/
  pend : Latch
  /-- Model's own: what the host and the platform will still do, in their order (log entry 3). -/
  inputs : List HostInput
  /-- Model's own: the value the host's last read returned (log entry 4). -/
  rdata : Word
  /-- Model's own: how many commands have been accepted; it picks the next LATENCY (log entry 2). -/
  issued : Nat
  /-- Model's own: host steps still to pass before the pending command completes (log entry 2). -/
  countdown : Nat
  deriving DecidableEq, Repr

/-- Why the machine stops. -/
inductive Fault where
  /-- Raised by the engine's step (`engineStep`) when STATUS.BUSY = 1 and PEND_OP = 0. The spec says op 0 never
  reaches EXEC (R112), so it gives no step here, and no state the unit reaches is one (the invariant `Legal`).
  Safe: the model stops. -/
  | nopPending
  deriving DecidableEq, Repr

/-- Why the model gives a step no meaning. -/
inductive Refusal where
  /-- An instruction without a meaning, rejected by name in `exec`. No arm does so now. Safe. -/
  | notModelled (mnemonic : String)
  /-- Raised by a host access inside the window that is not 32 bits wide or not at a multiple of 4 (`hostWrite`,
  `hostRead`): R53 has a model refuse it. Safe: the model stops. -/
  | accessForm
  deriving DecidableEq, Repr

/-- All result registers zero: after reset (R231) and after a failed command (R110). -/
def Results.zero : Results where
  check := 0
  valid := false
  outLen := 0
  odig := Vector.replicate 13 0
  modules := 0

/-- The latch after reset (R230). -/
def Latch.zero : Latch where
  op := 0
  sym := .ean13
  len := 0
  chars := Vector.replicate 16 0

/-- The unit right after reset (R35, R230, R231): every register reads 0 and every latch field is 0. The host
has nothing to do yet; the model's own fields are 0 (log entries 2, 3 and 4). -/
def State.reset : State where
  op := 0
  sym := .ean13
  inLen := 0
  busy := false
  rvalid := false
  err := 0
  chars := Vector.replicate 16 0
  results := Results.zero
  pend := Latch.zero
  inputs := []
  rdata := 0
  issued := 0
  countdown := 0

end Sys2Proof.Machine
end

