-- ==== Sys2Proof/Machine/Flags.lean ====
section
/-! DEFINITION. The flags (R31): STATUS and RESULT as words, the error kinds and their codes, and who sets which flag. -/

namespace Sys2Proof.Machine

/-- A one-bit field as bit 0 of a word. -/
def bitWord (b : Bool) : Word :=
  (BitVec.ofBool b).setWidth 32

/-- STATUS as the host reads it (R24): BUSY[0], RVALID[1], ERR[7:4]; every other bit 0. -/
def statusWord (s : State) : Word :=
  bitWord s.busy ||| (bitWord s.rvalid <<< 1) ||| (s.err.setWidth 32 <<< 4)

/-- RESULT as the host reads it (R25): CHECK[3:0], VALID[4], OUT_LEN[11:8]; every other bit 0. -/
def resultWord (r : Results) : Word :=
  r.check.setWidth 32 ||| (bitWord r.valid <<< 4) ||| (r.outLen.setWidth 32 <<< 8)

/-- The error kinds (R201). -/
inductive ErrorKind where
  | invalidLength
  | invalidDigit
  | checksumMismatch
  | checksumComputation
  | illegalCommand
  deriving DecidableEq, Repr

/-- The value of STATUS.ERR for an error kind (R201). -/
def errorCode : ErrorKind → BitVec 4
  | .invalidLength => 1
  | .invalidDigit => 2
  | .checksumMismatch => 3
  | .checksumComputation => 4
  | .illegalCommand => 5

/-- Write STATUS.BUSY. -/
def setBusy (b : Bool) (s : State) : State :=
  { s with busy := b }

/-- Write STATUS.RVALID and STATUS.ERR. -/
def setOutcome (rvalid : Bool) (err : BitVec 4) (s : State) : State :=
  { s with rvalid := rvalid, err := err }

/-- The STATUS fields at acceptance (R101): BUSY 1, RVALID 0, ERR 0. -/
def flagsAccepted (s : State) : State :=
  setOutcome false 0 (setBusy true s)

/-- The STATUS fields a successful completion writes (R109). -/
def flagsOk (s : State) : State :=
  setOutcome true 0 s

/-- The STATUS fields a failed completion writes (R110). -/
def flagsErr (kind : ErrorKind) (s : State) : State :=
  setOutcome false (errorCode kind) s

end Sys2Proof.Machine
end

