-- ==== Sys2Proof/Machine/Ops.lean ====
section
/-! DEFINITION. The named operations over the registers: field writes, the packing of cells into words, reading and
writing a register of the window, address decode, acceptance, the two write-backs, reset. -/

namespace Sys2Proof.Machine

/-! ## Field writes -/

/-- Write CMD.OP. -/
def setOp (op : BitVec 3) (s : State) : State :=
  { s with op := op }

/-- Write CONFIG.SYM and CONFIG.IN_LEN. -/
def setConfig (sym : Symbology) (len : BitVec 8) (s : State) : State :=
  { s with sym := sym, inLen := len }

/-- Write CHAR[0..15]. -/
def setChars (chars : Vector Byte 16) (s : State) : State :=
  { s with chars := chars }

/-- Write every result register. -/
def setResults (r : Results) (s : State) : State :=
  { s with results := r }

/-- Write the latch. -/
def setLatch (l : Latch) (s : State) : State :=
  { s with pend := l }

/-- The value a host read returns. -/
def setRdata (w : Word) (s : State) : State :=
  { s with rdata := w }

/-- What the host and the platform will still do. -/
def setInputs (l : List HostInput) (s : State) : State :=
  { s with inputs := l }

/-- The number of accepted commands, and the host steps before the pending one completes. -/
def setSchedule (issued countdown : Nat) (s : State) : State :=
  { s with issued := issued, countdown := countdown }

/-! ## Cells and words -/

/-- `n` cells of `w` bits in one word, cell k at bits [w*k+w-1 : w*k] (R26, R27). -/
def packCells {w : Nat} (cell : Nat → BitVec w) : Nat → Word
  | 0 => 0
  | n + 1 => packCells cell n ||| ((cell n).setWidth 32 <<< (w * n))

/-- CHAR[k] (R26), 0 beyond the sixteen cells. -/
def charCell (s : State) (k : Nat) : Byte :=
  if h : k < 16 then s.chars[k] else 0

/-- ODIG[k] (R27), 0 beyond the thirteen cells (reserved bits of OUT_DIG1 read 0). -/
def odigCell (s : State) (k : Nat) : BitVec 4 :=
  if h : k < 13 then s.results.odig[k] else 0

/-- IN_CHARj (R26). -/
def inCharWord (s : State) (j : Nat) : Word :=
  packCells (fun b => charCell s (4 * j + b)) 4

/-- OUT_DIGj (R27, R76). -/
def outDigWord (s : State) (j : Nat) : Word :=
  packCells (fun b => odigCell s (8 * j + b)) 8

/-- MODj (R28, R77): MODULE[i] is bit i mod 32 of MOD(i div 32). MOD3 bits 31:7 are hardwired to 0, as there is no
module above 102. -/
def modWord (s : State) (j : Nat) : Word :=
  s.results.modules.extractLsb' (32 * j) 32

/-- Bit 0 of a CONFIG word as a symbology (R23). -/
def symOfBit (b : Bool) : Symbology :=
  if b then .upca else .ean13

/-- A symbology as bit 0 of a CONFIG word (R23, R74). -/
def symBit (sym : Symbology) : Bool :=
  sym == .upca

/-- CONFIG as the host reads it (R23): SYM[0], IN_LEN[15:8]; every other bit 0. -/
def configWord (s : State) : Word :=
  bitWord (symBit s.sym) ||| (s.inLen.setWidth 32 <<< 8)

/-- CHAR[0..15] after the word `w` is written to IN_CHARj (R26). -/
def storeInChar (j : Nat) (w : Word) (chars : Vector Byte 16) : Vector Byte 16 :=
  Vector.ofFn fun k : Fin 16 =>
    if k.val / 4 = j then w.extractLsb' (8 * (k.val % 4)) 8 else chars[k]

/-! ## The register window -/

/-- The registers of the window (R21). -/
inductive Reg where
  | cmd
  | config
  | status
  | result
  | inChar (j : Nat)
  | outDig (j : Nat)
  | mod (j : Nat)
  deriving DecidableEq, Repr

/-- The register at a byte offset (R21, R63). None at the reserved offsets 0x28 and 0x2C (R29). -/
def regAt (off : Nat) : Option Reg :=
  match off with
  | 0x00 => some .cmd
  | 0x04 => some .config
  | 0x08 => some .status
  | 0x0C => some .result
  | 0x10 => some (.inChar 0)
  | 0x14 => some (.inChar 1)
  | 0x18 => some (.inChar 2)
  | 0x1C => some (.inChar 3)
  | 0x20 => some (.outDig 0)
  | 0x24 => some (.outDig 1)
  | 0x30 => some (.mod 0)
  | 0x34 => some (.mod 1)
  | 0x38 => some (.mod 2)
  | 0x3C => some (.mod 3)
  | _ => none

/-- A register's value (R22 to R28). -/
def readReg (s : State) : Reg → Word
  | .cmd => s.op.setWidth 32
  | .config => configWord s
  | .status => statusWord s
  | .result => resultWord s.results
  | .inChar j => inCharWord s j
  | .outDig j => outDigWord s j
  | .mod j => modWord s j

/-- `MemRead(off, 4)` (R53, R55): the register at the offset, 0 at a reserved one (R29). -/
def readOffset (s : State) (off : Nat) : Word :=
  match regAt off with
  | some r => readReg s r
  | none => 0

/-- What a write stores in a register other than CMD while the unit is idle: the bits that are not reserved
(R29, R56); nothing in a read-only register (R30). CMD is written by a command (R100). -/
def storeReg (r : Reg) (w : Word) (s : State) : State :=
  match r with
  | .cmd => s
  | .config => setConfig (symOfBit (w.getLsbD 0)) (w.extractLsb' 8 8) s
  | .status => s
  | .result => s
  | .inChar j => setChars (storeInChar j w s.chars) s
  | .outDig _ => s
  | .mod _ => s

/-- Address decode (R52): the offset at which an access reaches the unit, or none outside the window. -/
def windowOffset : BusAddr → Option Nat
  | .window off => if off < 64 then some off else none
  | .physical a => if Config.base ≤ a ∧ a < Config.base + 64 then some (a - Config.base) else none

/-! ## The command cycle's writes -/

/-- What acceptance latches (R101): CMD.OP, CONFIG.SYM, CONFIG.IN_LEN and CHAR[0..15]. -/
def latchInputs (s : State) : Latch where
  op := s.op
  sym := s.sym
  len := s.inLen
  chars := s.chars

/-- Acceptance (R101). The model draws the command's LATENCY here (R105, log entry 2). -/
def accept (s : State) : State :=
  setSchedule (s.issued + 1) (Config.latency s.issued) (flagsAccepted (setLatch (latchInputs s) s))

/-- What a command produces (R109): `none` is a field it does not produce. -/
structure CmdResult where
  check : Option Digit := none
  valid : Option Bool := none
  digits : Option (List Digit) := none
  modules : Option (List Bool) := none
  deriving DecidableEq, Repr

/-- A digit as a 4-bit cell. -/
def digitCell (d : Digit) : BitVec 4 :=
  BitVec.ofNat 4 d.val

/-- ODIG[0..12] for a digit string (R76): its digits from cell 0, the cells after it 0. -/
def packDigits (ds : List Digit) : Vector (BitVec 4) 13 :=
  Vector.ofFn fun k : Fin 13 =>
    match ds[k.val]? with
    | some d => digitCell d
    | none => 0

/-- MODULE[0..102] for a module sequence (R77): element i is bit i. -/
def packModules : List Bool → BitVec 103
  | [] => 0
  | m :: ms => (packModules ms <<< 1) ||| (BitVec.ofBool m).setWidth 103

/-- The result registers a successful command leaves (R109): a field it does not produce is 0. -/
def resultsOf (res : CmdResult) : Results where
  check := match res.check with
    | some d => digitCell d
    | none => 0
  valid := res.valid.getD false
  outLen := BitVec.ofNat 4 (res.digits.getD []).length
  odig := packDigits (res.digits.getD [])
  modules := packModules (res.modules.getD [])

/-- Successful write-back (R109). -/
def writeOk (res : CmdResult) (s : State) : State :=
  flagsOk (setResults (resultsOf res) s)

/-- Error entry (R110, R200, R204): the one way this unit takes an exception. Every result register becomes 0,
STATUS.RVALID 0 and STATUS.ERR the kind's code; no pc, status or mode is saved and no control moves, for the unit
has none, and there is no return from it (R205). -/
def writeErr (kind : ErrorKind) (s : State) : State :=
  flagsErr kind (setResults Results.zero s)

/-- The reset event (R230): every register and the latch become 0, and a pending command is abandoned. What the
host will still do, the value its last read returned and the count of commands are not the unit's (log entry 5). -/
def resetUnit (s : State) : State :=
  setSchedule s.issued 0
    (setRdata s.rdata
      (setInputs s.inputs State.reset))

end Sys2Proof.Machine
end

