-- ==== Sys2Proof/Machine/Operands.lean ====
section
/-! DEFINITION. The operands of a command (R73): symbology, length, characters, taken from the latch; the length
check (R107) and the character check (R108). -/

namespace Sys2Proof.Machine

/-- TOTAL(s) (R8, R14): the digits of a full string. -/
def total : Symbology → Nat
  | .ean13 => 13
  | .upca => 12

/-- PAYLOAD(s) = TOTAL(s) - 1 (R8, R14). -/
def payload (sym : Symbology) : Nat :=
  total sym - 1

/-- The operands of a command (R73, R106). -/
structure Operands where
  sym : Symbology
  len : Nat
  chars : List Byte
  deriving DecidableEq, Repr

/-- The operands in the latch (R73). -/
def operandsOf (l : Latch) : Operands where
  sym := l.sym
  len := l.len.toNat
  chars := l.chars.toList

/-- `digit(c)` for a character '0'..'9' (R13); none for any other byte (R108). -/
def digitOf (c : Byte) : Option Digit :=
  if h : 0x30 ≤ c.toNat ∧ c.toNat ≤ 0x39 then some ⟨c.toNat - 0x30, by omega⟩ else none

/-- The character check (R108): the digit string, or InvalidDigitError at the first character that is none. -/
def readDigits : List Byte → Except ErrorKind (List Digit)
  | [] => .ok []
  | c :: cs =>
    match digitOf c with
    | none => .error .invalidDigit
    | some d =>
      match readDigits cs with
      | .error e => .error e
      | .ok ds => .ok (d :: ds)

/-- The length check and then the character check (R107, R108, R203), common to COMPUTE, VALIDATE, NORMALIZE,
ENCODE and RUN: only the first L characters are examined (R73). -/
def checkInput (lengthAdmitted : Bool) (o : Operands) : Except ErrorKind (List Digit) :=
  if lengthAdmitted then readDigits (o.chars.take o.len) else .error .invalidLength

/-- The lengths COMPUTE admits (R107). -/
def isPayloadLength (o : Operands) : Bool :=
  o.len == payload o.sym

/-- The lengths VALIDATE and ENCODE admit (R107). -/
def isTotalLength (o : Operands) : Bool :=
  o.len == total o.sym

/-- The lengths NORMALIZE and RUN admit (R107). -/
def isAtMostTotal (o : Operands) : Bool :=
  decide (o.len ≤ total o.sym)

end Sys2Proof.Machine
end

