-- ==== Sys2Proof/Machine/Cycle.lean ====
section
/-! DEFINITION. The command cycle every command other than NOP goes through (R100 to R112): issue while the unit is
idle, completion while it is the pending command. -/

namespace Sys2Proof.Machine

/-- The outcome of a command function (R106). -/
abbrev CmdOutcome := Except ErrorKind CmdResult

/-- Write-back of an outcome (R104, R109, R110). -/
def writeBack (out : CmdOutcome) (s : State) : State :=
  match out with
  | .ok res => writeOk res s
  | .error kind => writeErr kind s

/-- The completion step (R104): the command function on the latched operands, its write-back, BUSY 0; all in one
step. -/
def complete (eval : Operands → CmdOutcome) (s : State) : State :=
  setBusy false (writeBack (eval (operandsOf s.pend)) s)

/-- Issue of a command other than NOP while the unit is idle (R100, R101). -/
def issue (op : BitVec 3) (s : State) : State :=
  accept (setOp op s)

/-- The next step of the command with code `op` in its cycle. An idle unit accepts it (R100, R101). A unit that
is busy with it completes it (R104). A unit that is busy with another command drops it (R102). A host write of
the same command while busy never comes here: `hostWrite` drops it. -/
def runCommand (op : BitVec 3) (eval : Operands → CmdOutcome) (s : State) :
    Host.Outcome State Fault Refusal :=
  if s.busy then
    if s.pend.op = op then .next (complete eval s) else .next s
  else .next (issue op s)

end Sys2Proof.Machine
end

