-- ==== Sys2Proof/Machine/Checksum.lean ====
section
/-! DEFINITION. The checksum unit (R120 to R129): COMPUTE and VALIDATE. -/

namespace Sys2Proof.Machine

/-- The weight of index `i` in a payload of length `n` (R120): 3 at the right end, alternating leftwards. -/
def payloadWeight (n i : Nat) : Nat :=
  if (n - 1 - i) % 2 = 0 then 3 else 1

/-- The weight of index `i` in a full string of length `m` (R123): 1 at the right end, alternating leftwards. -/
def fullWeight (m i : Nat) : Nat :=
  if (m - 1 - i) % 2 = 0 then 1 else 3

/-- The weighted sum of a digit string whose first digit has index `i`: an exact natural number (R126). -/
def weightedSum (weight : Nat → Nat) : Nat → List Digit → Nat
  | _, [] => 0
  | i, d :: ds => d.val * weight i + weightedSum weight (i + 1) ds

/-- S_pay(P) (R121). -/
def payloadSum (p : List Digit) : Nat :=
  weightedSum (payloadWeight p.length) 0 p

/-- check(P) (R121, R122). -/
def checkDigit (p : List Digit) : Digit :=
  ⟨(10 - payloadSum p % 10) % 10, Nat.mod_lt _ (by decide)⟩

/-- S_full(D) (R124). -/
def fullSum (d : List Digit) : Nat :=
  weightedSum (fullWeight d.length) 0 d

/-- valid(D) (R124). -/
def validDigits (d : List Digit) : Bool :=
  fullSum d % 10 == 0

/-- EXEC(1, s, L, chars) (R127). -/
def evalCompute (o : Operands) : CmdOutcome :=
  match checkInput (isPayloadLength o) o with
  | .error e => .error e
  | .ok p => .ok { check := some (checkDigit p) }

/-- EXEC(2, s, L, chars) (R128): a string that fails validation is a success with VALID = 0 (R202). -/
def evalValidate (o : Operands) : CmdOutcome :=
  match checkInput (isTotalLength o) o with
  | .error e => .error e
  | .ok d => .ok { valid := some (validDigits d) }

/-- COMPUTE (R127). -/
def execCompute (s : State) : Host.Outcome State Fault Refusal :=
  runCommand 1 evalCompute s

/-- VALIDATE (R128). -/
def execValidate (s : State) : Host.Outcome State Fault Refusal :=
  runCommand 2 evalValidate s

end Sys2Proof.Machine
end

