-- ==== Sys2Proof/Machine/Tables.lean ====
section
/-! DEFINITION. The immutable tables (R40 to R44) and the fixed parameters of the symbol (R8, R9). -/

namespace Sys2Proof.Machine

/-- LCODE (R40). PRESUMED by the spec from general knowledge (its G1); log entry 6. -/
def lcode : Digit → BitVec 7
  | 0 => 0b0001101
  | 1 => 0b0011001
  | 2 => 0b0010011
  | 3 => 0b0111101
  | 4 => 0b0100011
  | 5 => 0b0110001
  | 6 => 0b0101111
  | 7 => 0b0111011
  | 8 => 0b0110111
  | 9 => 0b0001011

/-- GCODE (R41). PRESUMED by the spec from general knowledge (its G2); log entry 6. -/
def gcode : Digit → BitVec 7
  | 0 => 0b0100111
  | 1 => 0b0110011
  | 2 => 0b0011011
  | 3 => 0b0100001
  | 4 => 0b0011101
  | 5 => 0b0111001
  | 6 => 0b0000101
  | 7 => 0b0010001
  | 8 => 0b0001001
  | 9 => 0b0010111

/-- RCODE (R42): the bitwise complement of LCODE within 7 bits. -/
def rcode (d : Digit) : BitVec 7 :=
  lcode d ^^^ 0b1111111

/-- PARITY (R43): bit 5 - j is the flag of left-group position j; 0 selects LCODE, 1 GCODE. PRESUMED by the spec
from general knowledge (its G3); log entry 6. -/
def parity : Digit → BitVec 6
  | 0 => 0b000000
  | 1 => 0b001011
  | 2 => 0b001101
  | 3 => 0b001110
  | 4 => 0b010011
  | 5 => 0b011001
  | 6 => 0b011100
  | 7 => 0b010101
  | 8 => 0b010110
  | 9 => 0b011010

/-- QUIET_WIDTH (R8). -/
def quietWidth : Nat := 4

/-- CODE_WIDTH (R8). -/
def codeWidth : Nat := 7

/-- GROUP_DIGITS (R8). -/
def groupDigits : Nat := 6

/-- MODULE_COUNT (R8; 90_conflicts.md C3). -/
def moduleCount : Nat := 103

/-- SYMBOL_WIDTH: the modules without the quiet zones (R8). -/
def symbolWidth : Nat := 95

/-- The zones of R150 in their order, as (first index, width): leading quiet zone, start guard, left data group,
middle guard, right data group, end guard, trailing quiet zone. Constants, with no register of their own (R151). -/
def zones : List (Nat × Nat) :=
  [(0, 4), (4, 3), (7, 42), (49, 5), (54, 42), (96, 3), (99, 4)]

/-- QUIET_WIDTH = 4 space modules (R8). -/
def quietZone : List Bool :=
  [false, false, false, false]

/-- START_GUARD and END_GUARD: 1,0,1 (R8). -/
def sideGuard : List Bool :=
  [true, false, true]

/-- MIDDLE_GUARD: 0,1,0,1,0 (R8). -/
def middleGuard : List Bool :=
  [false, true, false, true, false]

/-- GROUP_DIGITS = 6: the positions j = 0..5 of a data group (R8). -/
def groupPositions : List Nat :=
  [0, 1, 2, 3, 4, 5]

end Sys2Proof.Machine
end

