-- ==== Sys2Proof/Machine/Encoder.lean ====
section
/-! DEFINITION. The symbol encoder (R150 to R164): ENCODE. -/

namespace Sys2Proof.Machine

/-- The 13-digit effective string (R153). -/
def effective (d : List Digit) : Symbology → List Digit
  | .ean13 => d
  | .upca => 0 :: d

/-- Digit `i` of an effective string. The default is never read: the string has 13 digits (R107, R152). -/
def effectiveDigit (e : List Digit) (i : Nat) : Digit :=
  e.getD i 0

/-- A pattern's seven modules, most significant bit first (R159). -/
def patternModules (code : BitVec 7) : List Bool :=
  [code.getLsbD 6, code.getLsbD 5, code.getLsbD 4, code.getLsbD 3, code.getLsbD 2, code.getLsbD 1, code.getLsbD 0]

/-- The pattern of left-group digit `j` (R154, R157). -/
def leftPattern (e : List Digit) (j : Nat) : BitVec 7 :=
  if (parity (effectiveDigit e 0)).getLsbD (5 - j) then gcode (effectiveDigit e (1 + j))
  else lcode (effectiveDigit e (1 + j))

/-- The pattern of right-group digit `j` (R158). -/
def rightPattern (e : List Digit) (j : Nat) : BitVec 7 :=
  rcode (effectiveDigit e (7 + j))

/-- Steps 3 and 4 of R156. -/
def leftGroup (e : List Digit) : List Bool :=
  groupPositions.flatMap fun j => patternModules (leftPattern e j)

/-- Step 6 of R156. -/
def rightGroup (e : List Digit) : List Bool :=
  groupPositions.flatMap fun j => patternModules (rightPattern e j)

/-- The eight emissions of R156, in their order, for an effective string. -/
def emitSymbol (e : List Digit) : List Bool :=
  quietZone ++ sideGuard ++ leftGroup e ++ middleGuard ++ rightGroup e ++ sideGuard ++ quietZone

/-- `encode(D, s)` (R156). The check digit is not looked at (R152). -/
def encodeSymbol (d : List Digit) (sym : Symbology) : List Bool :=
  emitSymbol (effective d sym)

/-- EXEC(4, s, L, chars) (R161). -/
def evalEncode (o : Operands) : CmdOutcome :=
  match checkInput (isTotalLength o) o with
  | .error e => .error e
  | .ok d => .ok { modules := some (encodeSymbol d o.sym) }

/-- ENCODE (R161). -/
def execEncode (s : State) : Host.Outcome State Fault Refusal :=
  runCommand 4 evalEncode s

end Sys2Proof.Machine
end

