-- ==== Sys2Proof/Machine/Normalizer.lean ====
section
/-! DEFINITION. The digit normalizer (R140 to R142): NORMALIZE. -/

namespace Sys2Proof.Machine

/-- The padding of R140: unchanged from PAYLOAD(s) digits up, else left-padded with zeros to PAYLOAD(s). -/
def padToPayload (r : List Digit) (sym : Symbology) : List Digit :=
  if payload sym ≤ r.length then r else List.replicate (payload sym - r.length) 0 ++ r

/-- `normalize(r, s)` (R140). The length check has already excluded its error (R107). -/
def normalizeDigits (r : List Digit) (sym : Symbology) : Except ErrorKind (List Digit) :=
  if total sym < r.length then .error .invalidLength else .ok (padToPayload r sym)

/-- EXEC(3, s, L, chars) (R141). -/
def evalNormalize (o : Operands) : CmdOutcome :=
  match checkInput (isAtMostTotal o) o with
  | .error e => .error e
  | .ok r =>
    match normalizeDigits r o.sym with
    | .error e => .error e
    | .ok n => .ok { digits := some n }

/-- NORMALIZE (R141). -/
def execNormalize (s : State) : Host.Outcome State Fault Refusal :=
  runCommand 3 evalNormalize s

end Sys2Proof.Machine
end

