-- ==== Sys2Proof/Machine/Pipeline.lean ====
section
/-! DEFINITION. The pipeline (R180 to R186): RUN; and NOP and the reserved codes. -/

namespace Sys2Proof.Machine

/-- The checksum stage of RUN (R181): a string of TOTAL(s) digits is validated, a shorter one is completed with its
check digit and the completed string tested (R182). -/
def checksumStage (n : List Digit) (sym : Symbology) : Except ErrorKind (List Digit) :=
  if n.length = total sym then
    if validDigits n then .ok n else .error .checksumMismatch
  else if validDigits (n ++ [checkDigit n]) then .ok (n ++ [checkDigit n])
  else .error .checksumComputation

/-- `F[T-1]`: the last digit of a full string (R180). -/
def lastDigit (f : List Digit) (sym : Symbology) : Digit :=
  f.getD (total sym - 1) 0

/-- EXEC(5, s, L, chars) (R180), its stages in the order of R186. -/
def evalRun (o : Operands) : CmdOutcome :=
  match checkInput (isAtMostTotal o) o with
  | .error e => .error e
  | .ok r =>
    match normalizeDigits r o.sym with
    | .error e => .error e
    | .ok n =>
      match checksumStage n o.sym with
      | .error e => .error e
      | .ok f =>
        .ok { check := some (lastDigit f o.sym), valid := some true, digits := some f,
              modules := some (encodeSymbol f o.sym) }

/-- EXEC(6, ...) and EXEC(7, ...) (R185): before any length or character test. -/
def evalReserved (_ : Operands) : CmdOutcome :=
  .error .illegalCommand

/-- RUN (R180). -/
def execRun (s : State) : Host.Outcome State Fault Refusal :=
  runCommand 5 evalRun s

/-- NOP (R184): its CMD write stores 0 in CMD.OP and nothing else; while the unit is busy the write is dropped
(R102). It is never accepted and never completes. -/
def execNop (s : State) : Host.Outcome State Fault Refusal :=
  if s.busy then .next s else .next (setOp 0 s)

/-- The reserved code 6 (R185). -/
def execReserved6 (s : State) : Host.Outcome State Fault Refusal :=
  runCommand 6 evalReserved s

/-- The reserved code 7 (R185). -/
def execReserved7 (s : State) : Host.Outcome State Fault Refusal :=
  runCommand 7 evalReserved s

end Sys2Proof.Machine
end

