-- ==== Sys2Proof/Machine/Dispatch.lean ====
section
/-! DEFINITION. One arm per command (R71, R112). -/

namespace Sys2Proof.Machine

/-- The next step of a command in its cycle: its CMD write while the unit is idle (R100), its completion while the
unit is busy with it (R104, R112). `step` calls it for both. -/
def exec (i : Instr) (s : State) : Host.Outcome State Fault Refusal :=
  match i with
  | .nop => Sys2Proof.Machine.execNop s
  | .compute => Sys2Proof.Machine.execCompute s
  | .validate => Sys2Proof.Machine.execValidate s
  | .normalize => Sys2Proof.Machine.execNormalize s
  | .encode => Sys2Proof.Machine.execEncode s
  | .run => Sys2Proof.Machine.execRun s
  | .reserved6 => Sys2Proof.Machine.execReserved6 s
  | .reserved7 => Sys2Proof.Machine.execReserved7 s

end Sys2Proof.Machine
end

