-- ==== Sys2Proof/Machine/Agents.lean ====
section
/-! DEFINITION. The two agents (R7): the host's accesses (R52 to R56, R82, R100, R102), the platform's reset (R230)
and the engine's step (R104); and placing a command so that the next step runs it. -/

namespace Sys2Proof.Machine

/-- A host write. Outside the window it is not the unit's concern (R52). Inside, only an aligned 32-bit access has
a meaning (R53). While BUSY = 1 it has no effect (R102). A write to CMD runs the command it decodes to (R100). -/
def hostWrite (a : BusAddr) (width : Width) (w : Word) (s : State) : Host.Outcome State Fault Refusal :=
  match windowOffset a with
  | none => .next s
  | some off =>
    if accessWf width off then
      if s.busy then .next s
      else
        match regAt off with
        | some .cmd => exec (decode w) s
        | some r => .next (storeReg r w s)
        | none => .next s
    else .refused .accessForm

/-- A host read (R55): the value goes to the host, and no register changes. -/
def hostRead (a : BusAddr) (width : Width) (s : State) : Host.Outcome State Fault Refusal :=
  match windowOffset a with
  | none => .next s
  | some off => if accessWf width off then .next (setRdata (readOffset s off) s) else .refused .accessForm

/-- One read of WAIT (R82): STATUS is read, and while the value read has bit 0 = 1 the WAIT stands at the head of
the host's program again. -/
def hostPoll (s : State) : State :=
  let s' := setRdata (readOffset s 0x08) s
  if s'.rdata.getLsbD 0 then setInputs (.poll :: s.inputs) s' else s'

/-- One thing the outside world does. -/
def hostInput (x : HostInput) (s : State) : Host.Outcome State Fault Refusal :=
  match x with
  | .write a width w => hostWrite a width w s
  | .read a width => hostRead a width s
  | .poll => .next (hostPoll s)
  | .reset => .next (resetUnit s)

/-- The state in which the first of the host's inputs is carried out: it is off the list, and one host step of the
pending command's LATENCY has passed. -/
def takeInput (rest : List HostInput) (s : State) : State :=
  setSchedule s.issued (s.countdown - 1) (setInputs rest s)

/-- The outside world's turn. With nothing to do there is no step, and the state stays (R213, R241). -/
def hostStep (s : State) : Host.Outcome State Fault Refusal :=
  match s.inputs with
  | [] => .next s
  | x :: rest => hostInput x (takeInput rest s)

/-- Whose turn it is. The engine has a step exactly when BUSY = 1 (R104). It takes it once the command's LATENCY has
passed, or when the host has no step to take, as weak fairness asks (R105, R240). -/
def engineTurn (s : State) : Bool :=
  s.busy && (s.countdown == 0 || s.inputs.isEmpty)

/-- The engine's step (R104): the completion of the command in the latch (R112). -/
def engineStep (s : State) : Host.Outcome State Fault Refusal :=
  if s.pend.op = 0 then .fault .nopPending else exec (Instr.ofOpcode s.pend.op) s

/-- `s` with the command word `w` where the next step takes it. NOP has its whole effect at its CMD write, so that
write becomes the host's next step. Any other command has its effect at its completion, so it stands accepted (R100,
R101), with no host step left before the engine's. Log entry 7. -/
def placeCommand (w : Word) (s : State) : State :=
  match decode w with
  | .nop => setBusy false (setInputs (.write (.window 0x00) .w32 w :: s.inputs) s)
  | _ => setSchedule (s.issued + 1) 0 (issue (opField w) s)

end Sys2Proof.Machine
end

