-- ==== Sys2Proof/Machine/Program.lean ====
section
/-! DEFINITION. Host programs (R82, R83): the accesses a statement stands for. -/

namespace Sys2Proof.Machine

/-- The CONFIG word (R74): `(L << 8) | sym`. -/
def configImm (sym : Symbology) (len : Nat) : Word :=
  (BitVec.ofNat 32 len <<< 8) ||| bitWord (symBit sym)

/-- The word for IN_CHARj (R75): four characters, 0 for absent ones. -/
def stringImm (text : List Byte) (j : Nat) : Word :=
  packCells (fun b => text.getD (4 * j + b) 0) 4

/-- `SW off, imm` as a bus access (R82). -/
def storeWord (off : Nat) (w : Word) : HostInput :=
  .write (.window off) .w32 w

/-- `LW off` as a bus access (R82). -/
def loadWord (off : Nat) : HostInput :=
  .read (.window off) .w32

/-- The host steps of a statement (R82, R83). A name given by LW is the host's; EXPECT is no step. Log entry 8. -/
def expandStmt : HostStmt → List HostInput
  | .sw off imm => [storeWord off imm]
  | .lw off _ => [loadWord off]
  | .wait => [.poll]
  | .expect _ _ => []
  | .cmd op => [storeWord 0x00 (encode op)]
  | .config sym len => [storeWord 0x04 (configImm sym len)]
  | .loadStr text =>
    [storeWord 0x10 (stringImm text 0), storeWord 0x14 (stringImm text 1),
     storeWord 0x18 (stringImm text 2), storeWord 0x1C (stringImm text 3)]
  | .doCmd op => [storeWord 0x00 (encode op), .poll]
  | .readAll =>
    [loadWord 0x08, loadWord 0x0C, loadWord 0x20, loadWord 0x24,
     loadWord 0x30, loadWord 0x34, loadWord 0x38, loadWord 0x3C]

/-- The host steps of a program: its statements' in order (R82). -/
def expandProgram (p : List HostStmt) : List HostInput :=
  p.flatMap expandStmt

/-- A state whose host is about to run a program (R82, R241). -/
def loadProgram (p : List HostStmt) (s : State) : State :=
  setInputs (expandProgram p) s

end Sys2Proof.Machine
end

