-- ==== Sys2Proof/Machine/Step.lean ====
section
/-! DEFINITION. One step of the machine (R6, R58): the engine's completion or one step of the outside world. -/

namespace Sys2Proof.Machine

/-- One atomic step (R6): the engine's completion falls between two host steps, never inside one (R58). -/
def step (s : State) : Host.Outcome State Fault Refusal :=
  if engineTurn s then engineStep s else hostStep s

/-- `s` with the command word of `nbits` bits `w` placed so that the very next step runs it (`placeCommand`). -/
def State.withFetchWord (s : State) (nbits w : Nat) : State :=
  placeCommand (BitVec.ofNat 32 (w % 2 ^ nbits)) s

end Sys2Proof.Machine
end

