-- ==== Sys2Proof/Safety.lean ====
section
/-! DEFINITION. What counts as a safe run and a legal state, and the words in which the statements speak of the latch. -/

namespace Sys2Proof.Machine

/-- STATUS holds one of the combinations R24 lists; code 4 is never reported (R182, R201). -/
def StatusLegal (s : State) : Prop :=
  (s.busy = true → s.rvalid = false ∧ s.err = 0) ∧ (s.rvalid = true → s.err = 0) ∧ s.err.toNat ≤ 5 ∧ s.err ≠ 4

/-- CHECK holds 0..9 and OUT_LEN 0..13 (R25); each digit cell holds 0..9, and 0 from OUT_LEN on (R27). -/
def ResultsLegal (r : Results) : Prop :=
  r.check.toNat ≤ 9 ∧ r.outLen.toNat ≤ 13 ∧
    ∀ k : Fin 13, r.odig[k].toNat ≤ 9 ∧ (r.outLen.toNat ≤ k.val → r.odig[k] = 0)

/-- MODULE is all 0 or starts and ends as every symbol does: quiet zone and guard on both sides (R150, R164). -/
def ModulesLegal (r : Results) : Prop :=
  r.modules = 0 ∨ (r.modules.extractLsb' 0 7 = 0b1010000 ∧ r.modules.extractLsb' 96 7 = 0b0000101)

/-- While a command is pending the latch equals the visible inputs, and the command is not NOP (R32, R112). -/
def LatchLegal (s : State) : Prop :=
  s.busy = true → s.pend = latchInputs s ∧ s.op ≠ 0

/-- An idle unit without a valid result shows zeros: after reset and after an error (R110, R231). -/
def FailureLegal (s : State) : Prop :=
  s.busy = false → s.rvalid = false → s.results = Results.zero

/-- A state the unit can be in. -/
def Legal (s : State) : Prop :=
  StatusLegal s ∧ ResultsLegal s.results ∧ ModulesLegal s.results ∧ LatchLegal s ∧ FailureLegal s

/-- The command function of R106 for a code; none for NOP, which never reaches it (R112). -/
def commandFunction : Instr → Option (Operands → CmdOutcome)
  | .nop => none
  | .compute => some evalCompute
  | .validate => some evalValidate
  | .normalize => some evalNormalize
  | .encode => some evalEncode
  | .run => some evalRun
  | .reserved6 => some evalReserved
  | .reserved7 => some evalReserved

/-- What the latched command comes to (R106, R111). -/
def latchedOutcome (l : Latch) : Option CmdOutcome :=
  (commandFunction (Instr.ofOpcode l.op)).map fun eval => eval (operandsOf l)

/-- An idle unit that reports a result reports the outcome of the command in the latch: a success shows exactly the
result registers R109 gives it, a failure its error code (R104, R109 to R111). -/
def ReportsLatched (s : State) : Prop :=
  s.busy = false →
    (s.rvalid = true → ∃ res, latchedOutcome s.pend = some (.ok res) ∧ s.results = resultsOf res) ∧
    (s.err ≠ 0 → ∃ kind, latchedOutcome s.pend = some (.error kind) ∧ s.err = errorCode kind)

/-- An access that has a meaning (R52, R53): outside the window, or an aligned 32-bit one. -/
def accessAdmitted (a : BusAddr) (width : Width) : Bool :=
  match windowOffset a with
  | none => true
  | some off => accessWf width off

/-- An outside event the model gives a meaning. -/
def inputAdmitted : HostInput → Bool
  | .write a width _ => accessAdmitted a width
  | .read a width => accessAdmitted a width
  | .poll => true
  | .reset => true

/-- The host keeps to admitted accesses (R53). -/
def InputsAdmitted (s : State) : Prop :=
  ∀ x ∈ s.inputs, inputAdmitted x = true

/-- A safe run: the unit is in a legal state and the host keeps to admitted accesses. -/
def Safe (s : State) : Prop :=
  Legal s ∧ InputsAdmitted s

/-- The engine is about to complete the command `i` (R104). -/
def Pending (i : Instr) (s : State) : Prop :=
  s.busy = true ∧ s.pend.op = i.opcode

/-- The outside inputs whose turn comes before the pending command completes: at most its remaining LATENCY, and none
from a WAIT on, which reads STATUS again while BUSY = 1 (R82; log entries 2 and 3). -/
def inputsBeforeCompletion (s : State) : List HostInput :=
  (s.inputs.take s.countdown).takeWhile (· != .poll)

/-- L, the length in the latch (R73). -/
def latchedLen (s : State) : Nat :=
  s.pend.len.toNat

/-- PEND_CHAR[k] (R32), 0 beyond the sixteen cells. -/
def latchedChar (s : State) (k : Nat) : Byte :=
  s.pend.chars.toList.getD k 0

/-- Whether a byte is one of '0'..'9' (R13, R108). -/
def isDigitChar (c : Byte) : Bool :=
  decide (0x30 ≤ c.toNat ∧ c.toNat ≤ 0x39)

/-- The first L characters in the latch are the digits of `D` (R73, R75). -/
def LatchHolds (s : State) (D : List Digit) : Prop :=
  D.length = latchedLen s ∧ ∀ k, k < D.length → (latchedChar s k).toNat = 0x30 + (D.getD k 0).val

/-- Some character among the first L is no digit (R108). -/
def LatchHasBadChar (s : State) : Prop :=
  ∃ k, k < latchedLen s ∧ isDigitChar (latchedChar s k) = false

/-- The lengths a command admits (R107); the reserved codes and NOP test none (R185, R184). -/
def lengthAdmitted (i : Instr) (sym : Symbology) (len : Nat) : Prop :=
  match i with
  | .nop => True
  | .compute => len = payload sym
  | .validate => len = total sym
  | .normalize => len ≤ total sym
  | .encode => len = total sym
  | .run => len ≤ total sym
  | .reserved6 => True
  | .reserved7 => True

/-- The commands that test a length and read characters (R107, R108). -/
def readsInput (i : Instr) : Bool :=
  i == .compute || i == .validate || i == .normalize || i == .encode || i == .run

/-- The state a completion leaves: BUSY 0, the status and the result registers, everything else as it was
(R104, R109, R110). -/
def completed (s : State) (rvalid : Bool) (err : BitVec 4) (r : Results) : State :=
  { s with busy := false, rvalid := rvalid, err := err, results := r }

/-- The unit itself: its registers and its latch, with the model's own fields (log entries 2, 3, 4) set to 0. -/
def unitPart (s : State) : State :=
  { s with inputs := [], rdata := 0, issued := 0, countdown := 0 }

/-- The host's turn has passed one input (R58; log entries 2 and 3). -/
def hostPassed (s : State) (rest : List HostInput) : State :=
  { s with inputs := rest, countdown := s.countdown - 1 }

end Sys2Proof.Machine
end

