-- ==== Sys2Proof/Certificates/Slice0/Obligations.lean ====
section
/-! DEFINITION. The statements for the provers, from the numbered rules of the spec. -/

open Sys2Proof Sys2Proof.Machine

/-! ## Encoding -/

/-- R71, 95 section 2.7: command words written out bit by bit decode to their commands. -/
def Obligations.CommandWordsDecode : Prop :=
  decode 0b00000000000000000000000000000000 = .nop ∧
  decode 0b00000000000000000000000000000001 = .compute ∧
  decode 0b00000000000000000000000000000010 = .validate ∧
  decode 0b00000000000000000000000000000011 = .normalize ∧
  decode 0b00000000000000000000000000000100 = .encode ∧
  decode 0b00000000000000000000000000000101 = .run ∧
  decode 0b00000000000000000000000000000110 = .reserved6 ∧
  decode 0b00000000000000000000000000000111 = .reserved7 ∧
  decode 0b00000000000000000000000000001000 = .nop ∧
  decode 0b00000000000000000000000000001101 = .run ∧
  decode 0b11111111111111111111111111111110 = .reserved6 ∧
  decode 0b00000000000000000000000000001111 = .reserved7

/-- R70, R72: whatever stands in the ignored bits 31:3, a command's word decodes to the command; and every word is
the word of the command it decodes to, with its own ignored bits. -/
def Obligations.DecodeEncodeAgree : Prop :=
  (∀ (i : Instr) (ignored : BitVec 29), decode (encodeWith ignored i) = i) ∧
  (∀ w : Word, encodeWith (w.extractLsb' 3 29) (decode w) = w)

/-- R72: every word decodes to the row of the opcode table whose match value it has under the mask 0x00000007, and
two words decode alike exactly when their bits 2:0 agree. -/
def Obligations.DecodeReadsOnlyOpField : Prop :=
  (∀ w : Word, w &&& 0x00000007 = tableMatch (decode w)) ∧
  (∀ w v : Word, decode w = decode v ↔ ∀ b, b < 3 → w.getLsbD b = v.getLsbD b)

/-! ## The tables and the functions of a command -/

/-- R45 (a) to (f). -/
def Obligations.TableProperties : Prop :=
  (∀ d : Digit, (lcode d).getLsbD 6 = false ∧ (lcode d).getLsbD 0 = true ∧
    ((patternModules (lcode d)).count true = 3 ∨ (patternModules (lcode d)).count true = 5)) ∧
  (∀ d : Digit, (gcode d).getLsbD 6 = false ∧ (gcode d).getLsbD 0 = true ∧
    ((patternModules (gcode d)).count true = 2 ∨ (patternModules (gcode d)).count true = 4)) ∧
  (∀ d : Digit, (rcode d).getLsbD 6 = true ∧ (rcode d).getLsbD 0 = false) ∧
  (∀ (d : Digit) (b : Fin 7), (gcode d).getLsbD b.val = (rcode d).getLsbD (6 - b.val)) ∧
  (∀ d e : Digit, d ≠ e → lcode d ≠ lcode e ∧ gcode d ≠ gcode e ∧ rcode d ≠ rcode e ∧ parity d ≠ parity e) ∧
  parity 0 = 0 ∧
  (∀ d : Digit, d ≠ 0 → (parity d).getLsbD 5 = false ∧
    ([0, 1, 2, 3, 4, 5].countP fun j => (parity d).getLsbD j) = 3)

/-- R120, R121: the payload sum is the weighted sum, weight 3 at the right end and alternating, and the check digit
is (10 - sum mod 10) mod 10. -/
def Obligations.CheckDigitIsWeightedSum : Prop :=
  ∀ P : List Digit,
    payloadSum P = ∑ i ∈ Finset.range P.length,
      (P.getD i 0).val * (if (P.length - 1 - i) % 2 = 0 then 3 else 1) ∧
    (checkDigit P).val =
      (10 - (∑ i ∈ Finset.range P.length,
        (P.getD i 0).val * (if (P.length - 1 - i) % 2 = 0 then 3 else 1)) % 10) % 10

/-- R123, R124: the full sum is the weighted sum, weight 1 at the check digit and the payload's weights left of it,
and a string is valid exactly when the sum is 0 mod 10. -/
def Obligations.ValidIsWeightedSum : Prop :=
  (∀ D : List Digit,
    (validDigits D = true ↔
      (∑ i ∈ Finset.range D.length,
        (D.getD i 0).val * (if (D.length - 1 - i) % 2 = 0 then 1 else 3)) % 10 = 0)) ∧
  (∀ m, 0 < m → fullWeight m (m - 1) = 1) ∧
  (∀ m i, i < m - 1 → fullWeight m i = payloadWeight (m - 1) i)

/-- R125: a completed string validates, and a string validates only with its own check digit. -/
def Obligations.CheckDigitRoundTrip : Prop :=
  (∀ P : List Digit, validDigits (P ++ [checkDigit P]) = true) ∧
  (∀ (P : List Digit) (d : Digit), validDigits (P ++ [d]) = true ↔ d = checkDigit P)

/-- R129: leading zeros change neither a check digit nor a validation. -/
def Obligations.LeadingZerosIgnored : Prop :=
  ∀ (k : Nat) (P : List Digit),
    checkDigit (List.replicate k 0 ++ P) = checkDigit P ∧
    validDigits (List.replicate k 0 ++ P) = validDigits P

/-- R126: the largest sums, and that they are reached. -/
def Obligations.ChecksumSumsFitEightBits : Prop :=
  (∀ P : List Digit, P.length = 12 → payloadSum P ≤ 216) ∧
  (∀ P : List Digit, P.length = 11 → payloadSum P ≤ 207) ∧
  (∀ D : List Digit, D.length = 13 → fullSum D ≤ 225) ∧
  (∀ D : List Digit, D.length = 12 → fullSum D ≤ 216) ∧
  payloadSum (List.replicate 12 9) = 216 ∧ payloadSum (List.replicate 11 9) = 207 ∧
  fullSum (List.replicate 13 9) = 225 ∧ fullSum (List.replicate 12 9) = 216

/-- R128, corner cases: swapping two adjacent digits that differ by 5 is not seen. -/
def Obligations.TranspositionByFiveUnseen : Prop :=
  ∀ (l r : List Digit) (a b : Digit), (a.val + 5 = b.val ∨ b.val + 5 = a.val) →
    validDigits (l ++ a :: b :: r) = validDigits (l ++ b :: a :: r)

/-- R142 (a) to (d), and that normalization of an admitted input answers. -/
def Obligations.NormalizePads : Prop :=
  ∀ (r : List Digit) (sym : Symbology), r.length ≤ total sym →
    ∃ n, normalizeDigits r sym = .ok n ∧
      (r.length ≤ payload sym → n.length = payload sym) ∧
      (r.length = total sym → n.length = total sym) ∧
      normalizeDigits n sym = .ok n ∧
      (∃ k, n = List.replicate k 0 ++ r) ∧
      checkDigit n = checkDigit r ∧ validDigits n = validDigits r

/-- R150, R160: every module of a symbol by its index. -/
def Obligations.SymbolClosedForm : Prop :=
  ∀ (D : List Digit) (sym : Symbology),
    (∀ i, i ≤ 3 → (encodeSymbol D sym).getD i true = false) ∧
    (∀ i, 99 ≤ i → i ≤ 102 → (encodeSymbol D sym).getD i true = false) ∧
    (encodeSymbol D sym).getD 4 false = true ∧ (encodeSymbol D sym).getD 5 true = false ∧
    (encodeSymbol D sym).getD 6 false = true ∧
    (encodeSymbol D sym).getD 49 true = false ∧ (encodeSymbol D sym).getD 50 false = true ∧
    (encodeSymbol D sym).getD 51 true = false ∧ (encodeSymbol D sym).getD 52 false = true ∧
    (encodeSymbol D sym).getD 53 true = false ∧
    (encodeSymbol D sym).getD 96 false = true ∧ (encodeSymbol D sym).getD 97 true = false ∧
    (encodeSymbol D sym).getD 98 false = true ∧
    (∀ j b, j < 6 → b < 7 → (encodeSymbol D sym)[7 + 7 * j + b]? =
      some ((if (parity ((effective D sym).getD 0 0)).getLsbD (5 - j)
        then gcode ((effective D sym).getD (1 + j) 0)
        else lcode ((effective D sym).getD (1 + j) 0)).getLsbD (6 - b))) ∧
    (∀ j b, j < 6 → b < 7 → (encodeSymbol D sym)[54 + 7 * j + b]? =
      some ((rcode ((effective D sym).getD (7 + j) 0)).getLsbD (6 - b)))

/-- R162, R164: 103 modules, and what every symbol has in common. -/
def Obligations.SymbolStructure : Prop :=
  ∀ (D : List Digit) (sym : Symbology),
    (encodeSymbol D sym).length = 103 ∧
    (∀ j, j < 6 →
      (encodeSymbol D sym)[7 + 7 * j]? = some false ∧ (encodeSymbol D sym)[13 + 7 * j]? = some true ∧
      (encodeSymbol D sym)[54 + 7 * j]? = some true ∧ (encodeSymbol D sym)[60 + 7 * j]? = some false) ∧
    (packModules (encodeSymbol D sym)).extractLsb' 96 32 = (0x00000005 : Word) ∧
    (packModules (encodeSymbol D sym)).extractLsb' 0 7 = (0b1010000 : BitVec 7)

/-- R163, R129, R180 (corner cases): RUN on the same characters, at most 11 of them, gives the same check digit and
the same modules under both symbologies, with OUT_LEN 12 for UPC-A and 13 for EAN-13. -/
def Obligations.UpcaRunMatchesEan13Run : Prop :=
  ∀ s s' : State, Pending .run s → Pending .run s' →
    s.pend.sym = .upca → s'.pend.sym = .ean13 →
    latchedLen s = latchedLen s' → latchedLen s ≤ 11 →
    (∀ k, k < latchedLen s → latchedChar s k = latchedChar s' k) →
    (∀ k, k < latchedLen s → isDigitChar (latchedChar s k) = true) →
    ∃ t t', exec .run s = .next t ∧ exec .run s' = .next t' ∧
      t.results.check = t'.results.check ∧ t.results.modules = t'.results.modules ∧
      t.results.outLen = 12 ∧ t'.results.outLen = 13

/-! ## The register window

`engineTurn s = false` says that the outside world has the turn, and `hostPassed` is the host's own progress: both are
the model's choice (log entries 2 and 3). The value a read returns stands in `rdata` (log entry 4). -/

/-- R22 to R25: CMD, CONFIG, STATUS and RESULT as the host reads them, bit by bit; reserved bits read 0. -/
def Obligations.ControlRegisterBits : Prop :=
  ∀ (s : State) (b : Nat), b < 32 →
    (readOffset s 0x00).getLsbD b = (if b < 3 then s.op.getLsbD b else false) ∧
    (readOffset s 0x04).getLsbD b =
      (if b = 0 then decide (s.sym = .upca) else if 8 ≤ b ∧ b < 16 then s.inLen.getLsbD (b - 8) else false) ∧
    (readOffset s 0x08).getLsbD b =
      (if b = 0 then s.busy else if b = 1 then s.rvalid
       else if 4 ≤ b ∧ b < 8 then s.err.getLsbD (b - 4) else false) ∧
    (readOffset s 0x0C).getLsbD b =
      (if b < 4 then s.results.check.getLsbD b else if b = 4 then s.results.valid
       else if 8 ≤ b ∧ b < 12 then s.results.outLen.getLsbD (b - 8) else false)

/-- R26 to R29, R76, R77: where each character, digit and module stands in the data registers; the reserved bits and
the reserved offsets read 0. -/
def Obligations.DataRegisterBits : Prop :=
  ∀ s : State,
    (∀ k : Fin 16, (readOffset s (0x10 + 4 * (k.val / 4))).extractLsb' (8 * (k.val % 4)) 8 = s.chars[k]) ∧
    (∀ k : Fin 13, (readOffset s (0x20 + 4 * (k.val / 8))).extractLsb' (4 * (k.val % 8)) 4 = s.results.odig[k]) ∧
    (∀ b, 20 ≤ b → (readOffset s 0x24).getLsbD b = false) ∧
    (∀ i, i < 103 → (readOffset s (0x30 + 4 * (i / 32))).getLsbD (i % 32) = s.results.modules.getLsbD i) ∧
    (∀ b, 7 ≤ b → (readOffset s 0x3C).getLsbD b = false) ∧
    readOffset s 0x28 = 0 ∧ readOffset s 0x2C = 0

/-- R55: a read returns the register at its offset and changes nothing in the unit, busy or not. -/
def Obligations.ReadReturnsRegister : Prop :=
  ∀ (s : State) (a : BusAddr) (rest : List HostInput) (off : Nat),
    engineTurn s = false → s.inputs = .read a .w32 :: rest → windowOffset a = some off → off % 4 = 0 →
    ∃ t, step s = .next t ∧ t.rdata = readOffset s off ∧ unitPart t = unitPart s

/-- R23, R56: an idle CONFIG write stores SYM and IN_LEN, changes no other register, and reads back at once. -/
def Obligations.ConfigWriteStores : Prop :=
  ∀ (s : State) (a : BusAddr) (w : Word) (rest : List HostInput),
    s.busy = false → s.inputs = .write a .w32 w :: rest → windowOffset a = some 0x04 →
    ∃ t, step s = .next t ∧
      t = { hostPassed s rest with
              sym := if w.getLsbD 0 then .upca else .ean13, inLen := w.extractLsb' 8 8 } ∧
      readOffset t 0x04 = w &&& 0x0000FF01

/-- R26, R56: an idle IN_CHARj write stores the four characters of its word, changes no other cell and no other
register, and reads back at once. -/
def Obligations.InCharWriteStores : Prop :=
  ∀ (s : State) (a : BusAddr) (w : Word) (rest : List HostInput) (j : Nat),
    s.busy = false → j < 4 → s.inputs = .write a .w32 w :: rest → windowOffset a = some (0x10 + 4 * j) →
    ∃ t, step s = .next t ∧
      t = { hostPassed s rest with chars := t.chars } ∧
      (∀ k : Fin 16, k.val / 4 = j → t.chars[k] = w.extractLsb' (8 * (k.val % 4)) 8) ∧
      (∀ k : Fin 16, k.val / 4 ≠ j → t.chars[k] = s.chars[k]) ∧
      readOffset t (0x10 + 4 * j) = w

/-- R29, R30: a write to a read-only register or a reserved offset changes no register. -/
def Obligations.ReadOnlyWritesIgnored : Prop :=
  ∀ (s : State) (a : BusAddr) (w : Word) (rest : List HostInput) (off : Nat),
    engineTurn s = false → s.inputs = .write a .w32 w :: rest → windowOffset a = some off →
    off ∈ [0x08, 0x0C, 0x20, 0x24, 0x28, 0x2C, 0x30, 0x34, 0x38, 0x3C] →
    step s = .next (hostPassed s rest)

/-- R102: while BUSY = 1 a host write, to any offset, changes nothing in the unit. -/
def Obligations.BusyWritesDropped : Prop :=
  ∀ (s : State) (a : BusAddr) (w : Word) (rest : List HostInput) (off : Nat),
    s.busy = true → s.countdown ≠ 0 → s.inputs = .write a .w32 w :: rest →
    windowOffset a = some off → off % 4 = 0 →
    ∃ t, step s = .next t ∧ unitPart t = unitPart s

/-- R53: an access inside the window that is narrower or wider than 32 bits, or misaligned, is refused. -/
def Obligations.OddAccessRefused : Prop :=
  ∀ (s : State) (a : BusAddr) (width : Width) (w : Word) (rest : List HostInput) (off : Nat),
    engineTurn s = false → s.inputs = .write a width w :: rest ∨ s.inputs = .read a width :: rest →
    windowOffset a = some off → (width ≠ .w32 ∨ off % 4 ≠ 0) →
    step s = .refused .accessForm

/-- R50, R52: BASE is a multiple of 64, and a physical address reaches the unit exactly when it lies in the 64 bytes
from BASE on, at the offset it has there. That an access elsewhere is a step that changes nothing in the unit is the model's choice
(log entry 9). -/
def Obligations.AddressDecode : Prop :=
  Config.base % 64 = 0 ∧
  (∀ off, off < 64 → windowOffset (.physical (Config.base + off)) = some off ∧ windowOffset (.window off) = some off) ∧
  (∀ p, (p < Config.base ∨ Config.base + 64 ≤ p) → windowOffset (.physical p) = none) ∧
  (∀ (s : State) (a : BusAddr) (width : Width) (w : Word) (rest : List HostInput),
    engineTurn s = false → s.inputs = .write a width w :: rest ∨ s.inputs = .read a width :: rest →
    windowOffset a = none → step s = .next (hostPassed s rest))

/-! ## The command cycle -/

/-- R100: an idle CMD write runs the command its word decodes to; the step adds only the host's own progress
(the model's choice, log entries 2 and 3). -/
def Obligations.CmdWriteRunsDecoded : Prop :=
  ∀ (s : State) (a : BusAddr) (w : Word) (rest : List HostInput),
    s.busy = false → s.inputs = .write a .w32 w :: rest → windowOffset a = some 0x00 →
    step s = exec (decode w) (hostPassed s rest)

/-- R104, R112: at the engine's turn a step is exec of the command in the latch. When the engine has the turn is the
model's choice (log entry 2). -/
def Obligations.EngineStepRunsLatched : Prop :=
  ∀ s : State, s.busy = true → (s.countdown = 0 ∨ s.inputs = []) → s.pend.op ≠ 0 →
    step s = exec (Instr.ofOpcode s.pend.op) s

/-- R8, R105: before LATENCY has passed the outside world has the turn while it has something to do; an idle unit
leaves it the turn always, and with nothing to do the state stays (R213). The count of host steps and the list of
inputs are the model's choice (log entries 2 and 3). -/
def Obligations.OutsideTurn : Prop :=
  (∀ (s : State) (x : HostInput) (rest : List HostInput), (s.busy = false ∨ s.countdown ≠ 0) →
    s.inputs = x :: rest → step s = hostInput x (hostPassed s rest)) ∧
  (∀ s : State, s.busy = false → s.inputs = [] → step s = .next s)

/-- The model's choice (log entry 7): a command placed by withFetchWord is what the very next step runs. -/
def Obligations.PlacedCommandRunsNext : Prop :=
  (∀ (s : State) (w : Nat), decodeTableWord 32 w ≠ some .nop →
    ∃ i, decodeTableWord 32 w = some i ∧
      step (s.withFetchWord 32 w) = exec i (s.withFetchWord 32 w) ∧ Pending i (s.withFetchWord 32 w)) ∧
  (∀ (s : State) (w : Nat), decodeTableWord 32 w = some .nop →
    step (s.withFetchWord 32 w) = exec .nop { s with busy := false, countdown := s.countdown - 1 })

/-- R101: an idle unit accepts every command but NOP: the latch takes the inputs, BUSY 1, RVALID 0, ERR 0, and nothing
else in the unit changes but CMD.OP, which R100 has stored. -/
def Obligations.AcceptanceLatchesInputs : Prop :=
  ∀ (i : Instr) (s : State), i ≠ .nop → s.busy = false →
    ∃ t, exec i s = .next t ∧
      unitPart t = { unitPart s with
        op := i.opcode, pend := ⟨i.opcode, s.sym, s.inLen, s.chars⟩, busy := true, rvalid := false, err := 0 }

/-- R184: a CMD write with bits 2:0 = 000 to an idle unit stores 0 in CMD.OP and changes nothing else in the unit; to a
busy unit it changes nothing at all. -/
def Obligations.NopStoresZeroOnly : Prop :=
  (∀ w : Word, (∀ b, b < 3 → w.getLsbD b = false) → decode w = .nop) ∧
  (∀ s : State, s.busy = false → exec .nop s = .next { s with op := 0 }) ∧
  (∀ s : State, s.busy = true → exec .nop s = .next s) ∧
  (∀ (s : State) (a : BusAddr) (w : Word) (rest : List HostInput),
    engineTurn s = false → s.inputs = .write a .w32 w :: rest → windowOffset a = some 0x00 →
    (∀ b, b < 3 → w.getLsbD b = false) →
    ∃ t, step s = .next t ∧ unitPart t = if s.busy then unitPart s else { unitPart s with op := 0 })

/-- R127, R109: COMPUTE on a payload of digits completes with CHECK = check(P). -/
def Obligations.ComputeCompletes : Prop :=
  ∀ (s : State) (P : List Digit), Pending .compute s → latchedLen s = payload s.pend.sym → LatchHolds s P →
    exec .compute s = .next (completed s true 0
      { Results.zero with
        check := (BitVec.ofNat 4
          ((10 - (∑ i ∈ Finset.range P.length,
            (P.getD i 0).val * (if (P.length - 1 - i) % 2 = 0 then 3 else 1)) % 10) % 10)) })

/-- R128, R109, R202: VALIDATE on a full string of digits completes with VALID = valid(D), and without an error
either way. -/
def Obligations.ValidateCompletes : Prop :=
  ∀ (s : State) (D : List Digit), Pending .validate s → latchedLen s = total s.pend.sym → LatchHolds s D →
    exec .validate s = .next (completed s true 0
      { Results.zero with
        valid := (decide
          ((∑ i ∈ Finset.range D.length,
            (D.getD i 0).val * (if (D.length - 1 - i) % 2 = 0 then 1 else 3)) % 10 = 0)) })

/-- R140, R141, R76, R109: NORMALIZE on at most TOTAL(s) digits completes with the padded string in OUT_DIG and its
length in OUT_LEN; CHECK, VALID and MOD are 0. -/
def Obligations.NormalizeCompletes : Prop :=
  ∀ (s : State) (r : List Digit), Pending .normalize s → latchedLen s ≤ total s.pend.sym → LatchHolds s r →
    ∃ t, exec .normalize s = .next t ∧ t = completed s true 0 t.results ∧
      t.results.check = 0 ∧ t.results.valid = false ∧ t.results.modules = 0 ∧
      t.results.outLen.toNat = max (payload s.pend.sym) r.length ∧
      ∀ k : Fin 13, t.results.odig[k].toNat =
        ((List.replicate (payload s.pend.sym - r.length) 0 ++ r).getD k.val 0).val

/-- R161, R77, R109: ENCODE on a full string of digits, its check digit right or wrong, completes with the symbol's
modules; CHECK, VALID, OUT_LEN and OUT_DIG are 0. -/
def Obligations.EncodeCompletes : Prop :=
  ∀ (s : State) (D : List Digit), Pending .encode s → latchedLen s = total s.pend.sym → LatchHolds s D →
    ∃ t, exec .encode s = .next t ∧ t = completed s true 0 { Results.zero with modules := t.results.modules } ∧
      ∀ i, i < 103 → t.results.modules.getLsbD i = (encodeSymbol D s.pend.sym).getD i false

/-- R180, R181, R183: RUN on at most PAYLOAD(s) digits pads them, appends the check digit, and completes with the
full string, CHECK, VALID = 1 and the symbol's modules. -/
def Obligations.RunCompletesPayload : Prop :=
  ∀ (s : State) (r F : List Digit), Pending .run s → latchedLen s ≤ payload s.pend.sym → LatchHolds s r →
    F = List.replicate (payload s.pend.sym - r.length) 0 ++ r ++ [checkDigit r] →
    ∃ t, exec .run s = .next t ∧ t = completed s true 0 t.results ∧
      t.results.check.toNat = (checkDigit r).val ∧ t.results.valid = true ∧
      t.results.outLen.toNat = total s.pend.sym ∧
      (∀ k : Fin 13, t.results.odig[k].toNat = (F.getD k.val 0).val) ∧
      (∀ i, i < 103 → t.results.modules.getLsbD i = (encodeSymbol F s.pend.sym).getD i false)

/-- R180, R181, R183: RUN on a full string that validates completes with that string, its check digit, VALID = 1
and the symbol's modules. -/
def Obligations.RunCompletesFullString : Prop :=
  ∀ (s : State) (F : List Digit), Pending .run s → latchedLen s = total s.pend.sym → LatchHolds s F →
    validDigits F = true →
    ∃ t, exec .run s = .next t ∧ t = completed s true 0 t.results ∧
      t.results.check.toNat = (F.getD (total s.pend.sym - 1) 0).val ∧ t.results.valid = true ∧
      t.results.outLen.toNat = total s.pend.sym ∧
      (∀ k : Fin 13, t.results.odig[k].toNat = (F.getD k.val 0).val) ∧
      (∀ i, i < 103 → t.results.modules.getLsbD i = (encodeSymbol F s.pend.sym).getD i false)

/-- R181, R201: RUN on a full string that does not validate ends with ChecksumMismatchError, code 3, and no result. -/
def Obligations.RunRejectsMismatch : Prop :=
  ∀ (s : State) (F : List Digit), Pending .run s → latchedLen s = total s.pend.sym → LatchHolds s F →
    validDigits F = false →
    exec .run s = .next (completed s false 3 Results.zero)

/-- R185: codes 6 and 7 complete with IllegalCommand, code 5, whatever the inputs. -/
def Obligations.ReservedCompletesIllegal : Prop :=
  (∀ s : State, Pending .reserved6 s → exec .reserved6 s = .next (completed s false 5 Results.zero)) ∧
  (∀ s : State, Pending .reserved7 s → exec .reserved7 s = .next (completed s false 5 Results.zero))

/-- R107, R110, R203: a length the command does not admit ends it with code 1, whatever the characters. -/
def Obligations.LengthErrorReported : Prop :=
  ∀ (i : Instr) (s : State), readsInput i = true → Pending i s →
    ¬ lengthAdmitted i s.pend.sym (latchedLen s) →
    exec i s = .next (completed s false 1 Results.zero)

/-- R108, R110: with an admitted length, a character among the first L that is not '0'..'9' ends the command with
code 2. -/
def Obligations.DigitErrorReported : Prop :=
  ∀ (i : Instr) (s : State), readsInput i = true → Pending i s →
    lengthAdmitted i s.pend.sym (latchedLen s) → LatchHasBadChar s →
    exec i s = .next (completed s false 2 Results.zero)

/-- R203, R201: every completion reports exactly one code, the first cause in the order of R203 that holds, and 0
when none does. -/
def Obligations.ErrorPriority : Prop :=
  ∀ (i : Instr) (s : State), i ≠ .nop → Pending i s →
    ∃ t, exec i s = .next t ∧
      ((i = .reserved6 ∨ i = .reserved7) → t.err = 5) ∧
      (readsInput i = true → ¬ lengthAdmitted i s.pend.sym (latchedLen s) → t.err = 1) ∧
      (readsInput i = true → lengthAdmitted i s.pend.sym (latchedLen s) → LatchHasBadChar s → t.err = 2) ∧
      (∀ D : List Digit, readsInput i = true → lengthAdmitted i s.pend.sym (latchedLen s) → LatchHolds s D →
        t.err = if i = .run ∧ latchedLen s = total s.pend.sym ∧ validDigits D = false then 3 else 0)

/-- R182: RUN never reports ChecksumComputationFailure, code 4. -/
def Obligations.RunNeverReportsCodeFour : Prop :=
  ∀ s : State, Pending .run s → ∃ t, exec .run s = .next t ∧ t.err ≠ 4

/-- R104, R109, R110, R204: a completion clears BUSY and changes nothing but STATUS and the result registers; a
failure leaves every result register 0 and RVALID 0, a success RVALID 1. -/
def Obligations.CompletionFrame : Prop :=
  ∀ (i : Instr) (s : State), i ≠ .nop → Pending i s →
    ∃ t, exec i s = .next t ∧ t = completed s t.rvalid t.err t.results ∧
      (t.err ≠ 0 → t.rvalid = false ∧ t.results = Results.zero) ∧ (t.err = 0 → t.rvalid = true)

/-- R111, R73: what a completion writes depends on the latched command, symbology, length and first L characters
alone. -/
def Obligations.OutcomeDependsOnLatchAlone : Prop :=
  ∀ (i : Instr) (s s' : State), i ≠ .nop → Pending i s → Pending i s' →
    s.pend.sym = s'.pend.sym → latchedLen s = latchedLen s' →
    (∀ k, k < latchedLen s → latchedChar s k = latchedChar s' k) →
    ∃ t t', exec i s = .next t ∧ exec i s' = .next t' ∧
      t.results = t'.results ∧ t.err = t'.err ∧ t.rvalid = t'.rvalid

/-- R72, R79: no command is unpredictable: from every state each has a next state. -/
def Obligations.EveryCommandAnswers : Prop :=
  ∀ (i : Instr) (s : State), ∃ t, exec i s = .next t

/-- R82: a WAIT's read of STATUS stays at the head of the host's program while it returns bit 0 = 1, and is done
when it returns bit 0 = 0. (The list of inputs and the count are the model's choice, log entries 2 and 3.) -/
def Obligations.WaitPollsUntilIdle : Prop :=
  ∀ (s : State) (rest : List HostInput), engineTurn s = false → s.inputs = .poll :: rest →
    (s.busy = true → step s = .next { hostPassed s s.inputs with rdata := readOffset s 0x08 }) ∧
    (s.busy = false → step s = .next { hostPassed s rest with rdata := readOffset s 0x08 }) ∧
    (readOffset s 0x08).getLsbD 0 = s.busy

/-- R230: reset clears every register and the latch in one step, also while a command is pending, which is thereby
abandoned. (Of the model's own fields it says nothing.) -/
def Obligations.ResetClearsUnit : Prop :=
  ∀ (s : State) (rest : List HostInput), engineTurn s = false → s.inputs = .reset :: rest →
    ∃ t, step s = .next t ∧ unitPart t = State.reset

/-- R35, R231: after reset every offset reads 0 and every latch field is 0. -/
def Obligations.ResetReadsZero : Prop :=
  (∀ off, readOffset State.reset off = 0) ∧
  State.reset.pend.op = 0 ∧ State.reset.pend.sym = .ean13 ∧ State.reset.pend.len = 0 ∧
  (∀ k : Fin 16, State.reset.pend.chars[k] = 0)

/-! ## Rules of the whole machine -/

/-- R30, R31, R32: only a completion or reset changes a result register, and only acceptance or reset the latch. -/
def Obligations.ResultsAndLatchChangeOnlyThere : Prop :=
  ∀ s t : State, step s = .next t →
    (t.results ≠ s.results → engineTurn s = true ∨ ∃ rest, s.inputs = .reset :: rest) ∧
    (t.pend ≠ s.pend → engineTurn s = false ∧
      ((∃ rest, s.inputs = .reset :: rest) ∨
       (t.busy = true ∧ s.busy = false ∧ t.pend = ⟨t.op, s.sym, s.inLen, s.chars⟩ ∧
        ∃ a w rest, s.inputs = .write a .w32 w :: rest ∧ windowOffset a = some 0x00 ∧ opField w ≠ 0)))

/-- R31: RESULT.VALID becomes 1 only by the completion of a VALIDATE or a RUN, and only with RVALID = 1. -/
def Obligations.ValidSetOnlyByValidateOrRun : Prop :=
  ∀ s t : State, step s = .next t → s.results.valid = false → t.results.valid = true →
    engineTurn s = true ∧ (s.pend.op = 2 ∨ s.pend.op = 5) ∧ t.rvalid = true ∧ t.err = 0

/-- R104, R205, R230: BUSY falls only by the completion of the pending command or by reset; and while BUSY stays 1,
CMD, CONFIG, IN_CHAR, the latch and the results stay as they are. -/
def Obligations.BusyHoldsInputs : Prop :=
  ∀ s t : State, step s = .next t → s.busy = true →
    (t.busy = false → engineTurn s = true ∨ ∃ rest, s.inputs = .reset :: rest) ∧
    (t.busy = true → t.op = s.op ∧ t.sym = s.sym ∧ t.inLen = s.inLen ∧ t.chars = s.chars ∧
      t.pend = s.pend ∧ t.results = s.results ∧ t.rvalid = s.rvalid ∧ t.err = s.err)

/-- R24, R25, R27, R32, R164, R182, R231: the state after reset is legal, and reports no result. -/
def Obligations.ResetIsLegal : Prop :=
  Legal State.reset ∧ ReportsLatched State.reset

/-- R24, R25, R27, R32, R164, R182: every step keeps a legal state legal: the STATUS combinations, the ranges of
CHECK, OUT_LEN and the digit cells, the shape of the modules, the latch equal to the visible inputs while busy,
zeros shown after an error. -/
def Obligations.StepKeepsLegal : Prop :=
  ∀ s t : State, Legal s → step s = .next t → Legal t

/-- R104, R109 to R111: every step keeps it true that an idle unit that reports a result reports exactly the outcome
of the command in its latch. -/
def Obligations.StepKeepsReportsLatched : Prop :=
  ∀ s t : State, ReportsLatched s → step s = .next t → ReportsLatched t

/-- R53, R112: the machine stops only there: at the engine's turn with NOP in the latch (the model's fault, log entry
10, in no legal state), and at an access inside the window that is not an aligned 32-bit one. -/
def Obligations.StepStopsOnlyThere : Prop :=
  (∀ (s : State) (r : Fault), step s = .fault r ↔ engineTurn s = true ∧ s.pend.op = 0) ∧
  (∀ (s : State) (r : Refusal), step s = .refused r ↔
    r = .accessForm ∧ engineTurn s = false ∧ ∃ x rest, s.inputs = x :: rest ∧ inputAdmitted x = false) ∧
  (∀ s : State, Legal s → ∀ r, step s ≠ .fault r)

/-- R53, R79, R112: from a safe state a step answers a next state, which is safe: with the host keeping to admitted
accesses the machine never stops. -/
def Obligations.SafeRunNeverStops : Prop :=
  ∀ s : State, Safe s → ∃ t, step s = .next t ∧ Safe t

/-- R104, R105, R230, R240: from a safe busy state a step is the completion of the latched command, or a reset that
stands next, or a host step that keeps BUSY and the latch and leaves one host step fewer. Whose turn it is, and the
count, are the model's choice (log entry 2). -/
def Obligations.BusyStepCompletesOrCountsDown : Prop :=
  ∀ s : State, Safe s → s.busy = true →
    ∃ t, step s = .next t ∧
      ((engineTurn s = true ∧ step s = exec (Instr.ofOpcode s.pend.op) s ∧ t.busy = false) ∨
       (engineTurn s = false ∧ (∃ rest, s.inputs = .reset :: rest) ∧ t.busy = false) ∨
       (engineTurn s = false ∧ (∀ rest, s.inputs ≠ .reset :: rest) ∧ t.busy = true ∧ t.pend = s.pend ∧
        t.countdown + 1 = s.countdown))

/-- R105, R240: a pending command completes unless reset comes first: from a safe busy state with no reset among the
inputs whose turn comes before the completion, at most countdown host steps pass, the latch as it was, and then the
step is the completion of the latched command. A reset after the completion, or behind a WAIT, is not shut out. The
count is the model's choice (log entry 2). -/
def Obligations.AcceptedCommandCompletes : Prop :=
  ∀ s : State, Safe s → s.busy = true → .reset ∉ inputsBeforeCompletion s →
    ∃ k u t, k ≤ s.countdown ∧ core.run k s = .next u ∧ u.busy = true ∧ u.pend = s.pend ∧
      step u = exec (Instr.ofOpcode s.pend.op) u ∧ step u = .next t ∧ t.busy = false

/-- R82, R83, R75: the four writes of LOADSTR leave the string in the character cells, 0 in those after it, and
change no other register. (The host's progress is the model's choice, log entries 2 and 3.) -/
def Obligations.LoadStringFillsCells : Prop :=
  ∀ (s : State) (text : List Byte) (rest : List HostInput), s.busy = false → text.length ≤ 16 →
    s.inputs = expandStmt (.loadStr text) ++ rest →
    ∃ t, core.run 4 s = .next t ∧
      t = { s with chars := t.chars, inputs := rest, countdown := s.countdown - 4 } ∧
      ∀ k : Fin 16, t.chars[k] = text.getD k.val 0

/-- R74, R83: the CONFIG pseudo-statement stores its symbology and its length. (The host's progress is the model's
choice, log entries 2 and 3.) -/
def Obligations.ConfigStatementStores : Prop :=
  ∀ (s : State) (sym : Symbology) (len : Nat) (rest : List HostInput), s.busy = false → len ≤ 255 →
    s.inputs = expandStmt (.config sym len) ++ rest →
    step s = .next { hostPassed s rest with sym := sym, inLen := BitVec.ofNat 8 len }

/-- R82, R83: the pseudo-statement of a command, written to an idle unit, runs that command. (The host's progress
is the model's choice, log entries 2 and 3.) -/
def Obligations.CommandStatementRuns : Prop :=
  ∀ (s : State) (i : Instr) (rest : List HostInput), s.busy = false → s.inputs = expandStmt (.cmd i) ++ rest →
    step s = exec i (hostPassed s rest)
end

