-- ==== Sys2Proof/Laws/Checksum.lean ====
section
/-! SUPPORT. The weighted sums: as sums over indices, over a concatenation, and one digit at a time. -/

namespace Sys2Proof.Machine

theorem weightedSum_eq_sum (weight : Nat → Nat) (i : Nat) (ds : List Digit) :
    weightedSum weight i ds = ∑ k ∈ Finset.range ds.length, (ds.getD k 0).val * weight (i + k) := by
  induction ds generalizing i with
  | nil => simp [weightedSum]
  | cons d ds ih =>
    rw [weightedSum, ih, List.length_cons, Finset.sum_range_succ', Nat.add_comm]
    congr 1
    apply Finset.sum_congr rfl
    intro k _
    rw [List.getD_cons_succ, show i + 1 + k = i + (k + 1) by omega]

theorem weightedSum_append (weight : Nat → Nat) (i : Nat) (l r : List Digit) :
    weightedSum weight i (l ++ r) = weightedSum weight i l + weightedSum weight (i + l.length) r := by
  induction l generalizing i with
  | nil => simp [weightedSum]
  | cons d l ih =>
    have hidx : i + 1 + l.length = i + (l.length + 1) := by omega
    rw [List.cons_append, weightedSum, ih, weightedSum, List.length_cons, hidx, Nat.add_assoc]

/-- A weighted sum depends only on the weights of the string's own indices. -/
theorem weightedSum_congr {v w : Nat → Nat} {i j : Nat} {ds : List Digit}
    (h : ∀ k, k < ds.length → v (i + k) = w (j + k)) : weightedSum v i ds = weightedSum w j ds := by
  rw [weightedSum_eq_sum, weightedSum_eq_sum]
  exact Finset.sum_congr rfl fun k hk => by rw [h k (Finset.mem_range.mp hk)]

theorem weightedSum_zeros (weight : Nat → Nat) (i k : Nat) : weightedSum weight i (List.replicate k 0) = 0 := by
  induction k generalizing i with
  | zero => rfl
  | succ k ih => rw [List.replicate_succ, weightedSum, ih]; simp

theorem weightedSum_cons (weight : Nat → Nat) (i : Nat) (d : Digit) (ds : List Digit) :
    weightedSum weight i (d :: ds) = d.val * weight i + weightedSum weight (i + 1) ds := rfl

theorem fullWeight_last (m : Nat) : fullWeight (m + 1) m = 1 := by
  simp [fullWeight]

theorem fullWeight_of_lt {m i : Nat} (h : i < m) : fullWeight (m + 1) i = payloadWeight m i := by
  unfold fullWeight payloadWeight
  split <;> split <;> omega

/-- The full sum of a payload and its last digit (R123). -/
theorem fullSum_concat (p : List Digit) (d : Digit) : fullSum (p ++ [d]) = payloadSum p + d.val := by
  rw [fullSum, weightedSum_append, payloadSum, weightedSum_cons, List.length_append, List.length_singleton,
    Nat.zero_add, fullWeight_last]
  congr 1
  · exact weightedSum_congr fun k hk => by rw [Nat.zero_add, fullWeight_of_lt hk]
  · simp [weightedSum]

theorem checkDigit_val (p : List Digit) : (checkDigit p).val = (10 - payloadSum p % 10) % 10 := rfl

theorem validDigits_iff (d : List Digit) : validDigits d = true ↔ fullSum d % 10 = 0 := by
  simp [validDigits]

end Sys2Proof.Machine
end

