-- ==== Sys2Proof/Laws/Encoder.lean ====
section
/-! SUPPORT. The lengths of a symbol's zones. -/

namespace Sys2Proof.Machine

@[simp] theorem patternModules_length (code : BitVec 7) : (patternModules code).length = 7 := rfl

theorem patternModules_getElem? (code : BitVec 7) {b : Nat} (h : b < 7) :
    (patternModules code)[b]? = some (code.getLsbD (6 - b)) := by
  match b, h with
  | 0, _ => rfl
  | 1, _ => rfl
  | 2, _ => rfl
  | 3, _ => rfl
  | 4, _ => rfl
  | 5, _ => rfl
  | 6, _ => rfl

@[simp] theorem leftGroup_length (e : List Digit) : (leftGroup e).length = 42 := rfl

@[simp] theorem rightGroup_length (e : List Digit) : (rightGroup e).length = 42 := rfl

/-- The parts of a symbol in their order have the zones' widths (R150). -/
theorem zone_widths (e : List Digit) :
    [quietZone, sideGuard, leftGroup e, middleGuard, rightGroup e, sideGuard, quietZone].map List.length =
      zones.map Prod.snd := rfl

/-- Each zone begins where the one before it ends, and the last ends at MODULE_COUNT (R150, R162). -/
theorem zones_tile : zones.foldl (fun at_ z => if z.1 = at_ then at_ + z.2 else 0) 0 = moduleCount := rfl

theorem widths_agree : groupDigits * codeWidth = 42 ∧ symbolWidth + 2 * quietWidth = moduleCount := by decide

end Sys2Proof.Machine
end

