-- ==== Sys2Proof/Laws/State.lean ====
section
/-! SUPPORT. One lemma per field per update: the field written takes the value, every other field keeps its own. -/

namespace Sys2Proof.Machine

/-! ## setBusy -/

@[simp] theorem setBusy_op (s : State) (b : Bool) : (setBusy b s).op = s.op := rfl
@[simp] theorem setBusy_sym (s : State) (b : Bool) : (setBusy b s).sym = s.sym := rfl
@[simp] theorem setBusy_inLen (s : State) (b : Bool) : (setBusy b s).inLen = s.inLen := rfl
@[simp] theorem setBusy_busy (s : State) (b : Bool) : (setBusy b s).busy = b := rfl
@[simp] theorem setBusy_rvalid (s : State) (b : Bool) : (setBusy b s).rvalid = s.rvalid := rfl
@[simp] theorem setBusy_err (s : State) (b : Bool) : (setBusy b s).err = s.err := rfl
@[simp] theorem setBusy_chars (s : State) (b : Bool) : (setBusy b s).chars = s.chars := rfl
@[simp] theorem setBusy_results (s : State) (b : Bool) : (setBusy b s).results = s.results := rfl
@[simp] theorem setBusy_pend (s : State) (b : Bool) : (setBusy b s).pend = s.pend := rfl
@[simp] theorem setBusy_inputs (s : State) (b : Bool) : (setBusy b s).inputs = s.inputs := rfl
@[simp] theorem setBusy_rdata (s : State) (b : Bool) : (setBusy b s).rdata = s.rdata := rfl
@[simp] theorem setBusy_issued (s : State) (b : Bool) : (setBusy b s).issued = s.issued := rfl
@[simp] theorem setBusy_countdown (s : State) (b : Bool) : (setBusy b s).countdown = s.countdown := rfl

/-! ## setOutcome -/

@[simp] theorem setOutcome_op (s : State) (v : Bool) (e : BitVec 4) : (setOutcome v e s).op = s.op := rfl
@[simp] theorem setOutcome_sym (s : State) (v : Bool) (e : BitVec 4) : (setOutcome v e s).sym = s.sym := rfl
@[simp] theorem setOutcome_inLen (s : State) (v : Bool) (e : BitVec 4) : (setOutcome v e s).inLen = s.inLen := rfl
@[simp] theorem setOutcome_busy (s : State) (v : Bool) (e : BitVec 4) : (setOutcome v e s).busy = s.busy := rfl
@[simp] theorem setOutcome_rvalid (s : State) (v : Bool) (e : BitVec 4) : (setOutcome v e s).rvalid = v := rfl
@[simp] theorem setOutcome_err (s : State) (v : Bool) (e : BitVec 4) : (setOutcome v e s).err = e := rfl
@[simp] theorem setOutcome_chars (s : State) (v : Bool) (e : BitVec 4) : (setOutcome v e s).chars = s.chars := rfl
@[simp] theorem setOutcome_results (s : State) (v : Bool) (e : BitVec 4) : (setOutcome v e s).results = s.results := rfl
@[simp] theorem setOutcome_pend (s : State) (v : Bool) (e : BitVec 4) : (setOutcome v e s).pend = s.pend := rfl
@[simp] theorem setOutcome_inputs (s : State) (v : Bool) (e : BitVec 4) : (setOutcome v e s).inputs = s.inputs := rfl
@[simp] theorem setOutcome_rdata (s : State) (v : Bool) (e : BitVec 4) : (setOutcome v e s).rdata = s.rdata := rfl
@[simp] theorem setOutcome_issued (s : State) (v : Bool) (e : BitVec 4) : (setOutcome v e s).issued = s.issued := rfl
@[simp] theorem setOutcome_countdown (s : State) (v : Bool) (e : BitVec 4) : (setOutcome v e s).countdown = s.countdown := rfl

/-! ## setOp -/

@[simp] theorem setOp_op (s : State) (x : BitVec 3) : (setOp x s).op = x := rfl
@[simp] theorem setOp_sym (s : State) (x : BitVec 3) : (setOp x s).sym = s.sym := rfl
@[simp] theorem setOp_inLen (s : State) (x : BitVec 3) : (setOp x s).inLen = s.inLen := rfl
@[simp] theorem setOp_busy (s : State) (x : BitVec 3) : (setOp x s).busy = s.busy := rfl
@[simp] theorem setOp_rvalid (s : State) (x : BitVec 3) : (setOp x s).rvalid = s.rvalid := rfl
@[simp] theorem setOp_err (s : State) (x : BitVec 3) : (setOp x s).err = s.err := rfl
@[simp] theorem setOp_chars (s : State) (x : BitVec 3) : (setOp x s).chars = s.chars := rfl
@[simp] theorem setOp_results (s : State) (x : BitVec 3) : (setOp x s).results = s.results := rfl
@[simp] theorem setOp_pend (s : State) (x : BitVec 3) : (setOp x s).pend = s.pend := rfl
@[simp] theorem setOp_inputs (s : State) (x : BitVec 3) : (setOp x s).inputs = s.inputs := rfl
@[simp] theorem setOp_rdata (s : State) (x : BitVec 3) : (setOp x s).rdata = s.rdata := rfl
@[simp] theorem setOp_issued (s : State) (x : BitVec 3) : (setOp x s).issued = s.issued := rfl
@[simp] theorem setOp_countdown (s : State) (x : BitVec 3) : (setOp x s).countdown = s.countdown := rfl

/-! ## setConfig -/

@[simp] theorem setConfig_op (s : State) (y : Symbology) (n : BitVec 8) : (setConfig y n s).op = s.op := rfl
@[simp] theorem setConfig_sym (s : State) (y : Symbology) (n : BitVec 8) : (setConfig y n s).sym = y := rfl
@[simp] theorem setConfig_inLen (s : State) (y : Symbology) (n : BitVec 8) : (setConfig y n s).inLen = n := rfl
@[simp] theorem setConfig_busy (s : State) (y : Symbology) (n : BitVec 8) : (setConfig y n s).busy = s.busy := rfl
@[simp] theorem setConfig_rvalid (s : State) (y : Symbology) (n : BitVec 8) : (setConfig y n s).rvalid = s.rvalid := rfl
@[simp] theorem setConfig_err (s : State) (y : Symbology) (n : BitVec 8) : (setConfig y n s).err = s.err := rfl
@[simp] theorem setConfig_chars (s : State) (y : Symbology) (n : BitVec 8) : (setConfig y n s).chars = s.chars := rfl
@[simp] theorem setConfig_results (s : State) (y : Symbology) (n : BitVec 8) : (setConfig y n s).results = s.results := rfl
@[simp] theorem setConfig_pend (s : State) (y : Symbology) (n : BitVec 8) : (setConfig y n s).pend = s.pend := rfl
@[simp] theorem setConfig_inputs (s : State) (y : Symbology) (n : BitVec 8) : (setConfig y n s).inputs = s.inputs := rfl
@[simp] theorem setConfig_rdata (s : State) (y : Symbology) (n : BitVec 8) : (setConfig y n s).rdata = s.rdata := rfl
@[simp] theorem setConfig_issued (s : State) (y : Symbology) (n : BitVec 8) : (setConfig y n s).issued = s.issued := rfl
@[simp] theorem setConfig_countdown (s : State) (y : Symbology) (n : BitVec 8) : (setConfig y n s).countdown = s.countdown := rfl

/-! ## setChars -/

@[simp] theorem setChars_op (s : State) (c : Vector Byte 16) : (setChars c s).op = s.op := rfl
@[simp] theorem setChars_sym (s : State) (c : Vector Byte 16) : (setChars c s).sym = s.sym := rfl
@[simp] theorem setChars_inLen (s : State) (c : Vector Byte 16) : (setChars c s).inLen = s.inLen := rfl
@[simp] theorem setChars_busy (s : State) (c : Vector Byte 16) : (setChars c s).busy = s.busy := rfl
@[simp] theorem setChars_rvalid (s : State) (c : Vector Byte 16) : (setChars c s).rvalid = s.rvalid := rfl
@[simp] theorem setChars_err (s : State) (c : Vector Byte 16) : (setChars c s).err = s.err := rfl
@[simp] theorem setChars_chars (s : State) (c : Vector Byte 16) : (setChars c s).chars = c := rfl
@[simp] theorem setChars_results (s : State) (c : Vector Byte 16) : (setChars c s).results = s.results := rfl
@[simp] theorem setChars_pend (s : State) (c : Vector Byte 16) : (setChars c s).pend = s.pend := rfl
@[simp] theorem setChars_inputs (s : State) (c : Vector Byte 16) : (setChars c s).inputs = s.inputs := rfl
@[simp] theorem setChars_rdata (s : State) (c : Vector Byte 16) : (setChars c s).rdata = s.rdata := rfl
@[simp] theorem setChars_issued (s : State) (c : Vector Byte 16) : (setChars c s).issued = s.issued := rfl
@[simp] theorem setChars_countdown (s : State) (c : Vector Byte 16) : (setChars c s).countdown = s.countdown := rfl

/-! ## setResults -/

@[simp] theorem setResults_op (s : State) (r : Results) : (setResults r s).op = s.op := rfl
@[simp] theorem setResults_sym (s : State) (r : Results) : (setResults r s).sym = s.sym := rfl
@[simp] theorem setResults_inLen (s : State) (r : Results) : (setResults r s).inLen = s.inLen := rfl
@[simp] theorem setResults_busy (s : State) (r : Results) : (setResults r s).busy = s.busy := rfl
@[simp] theorem setResults_rvalid (s : State) (r : Results) : (setResults r s).rvalid = s.rvalid := rfl
@[simp] theorem setResults_err (s : State) (r : Results) : (setResults r s).err = s.err := rfl
@[simp] theorem setResults_chars (s : State) (r : Results) : (setResults r s).chars = s.chars := rfl
@[simp] theorem setResults_results (s : State) (r : Results) : (setResults r s).results = r := rfl
@[simp] theorem setResults_pend (s : State) (r : Results) : (setResults r s).pend = s.pend := rfl
@[simp] theorem setResults_inputs (s : State) (r : Results) : (setResults r s).inputs = s.inputs := rfl
@[simp] theorem setResults_rdata (s : State) (r : Results) : (setResults r s).rdata = s.rdata := rfl
@[simp] theorem setResults_issued (s : State) (r : Results) : (setResults r s).issued = s.issued := rfl
@[simp] theorem setResults_countdown (s : State) (r : Results) : (setResults r s).countdown = s.countdown := rfl

/-! ## setLatch -/

@[simp] theorem setLatch_op (s : State) (l : Latch) : (setLatch l s).op = s.op := rfl
@[simp] theorem setLatch_sym (s : State) (l : Latch) : (setLatch l s).sym = s.sym := rfl
@[simp] theorem setLatch_inLen (s : State) (l : Latch) : (setLatch l s).inLen = s.inLen := rfl
@[simp] theorem setLatch_busy (s : State) (l : Latch) : (setLatch l s).busy = s.busy := rfl
@[simp] theorem setLatch_rvalid (s : State) (l : Latch) : (setLatch l s).rvalid = s.rvalid := rfl
@[simp] theorem setLatch_err (s : State) (l : Latch) : (setLatch l s).err = s.err := rfl
@[simp] theorem setLatch_chars (s : State) (l : Latch) : (setLatch l s).chars = s.chars := rfl
@[simp] theorem setLatch_results (s : State) (l : Latch) : (setLatch l s).results = s.results := rfl
@[simp] theorem setLatch_pend (s : State) (l : Latch) : (setLatch l s).pend = l := rfl
@[simp] theorem setLatch_inputs (s : State) (l : Latch) : (setLatch l s).inputs = s.inputs := rfl
@[simp] theorem setLatch_rdata (s : State) (l : Latch) : (setLatch l s).rdata = s.rdata := rfl
@[simp] theorem setLatch_issued (s : State) (l : Latch) : (setLatch l s).issued = s.issued := rfl
@[simp] theorem setLatch_countdown (s : State) (l : Latch) : (setLatch l s).countdown = s.countdown := rfl

/-! ## setRdata -/

@[simp] theorem setRdata_op (s : State) (w : Word) : (setRdata w s).op = s.op := rfl
@[simp] theorem setRdata_sym (s : State) (w : Word) : (setRdata w s).sym = s.sym := rfl
@[simp] theorem setRdata_inLen (s : State) (w : Word) : (setRdata w s).inLen = s.inLen := rfl
@[simp] theorem setRdata_busy (s : State) (w : Word) : (setRdata w s).busy = s.busy := rfl
@[simp] theorem setRdata_rvalid (s : State) (w : Word) : (setRdata w s).rvalid = s.rvalid := rfl
@[simp] theorem setRdata_err (s : State) (w : Word) : (setRdata w s).err = s.err := rfl
@[simp] theorem setRdata_chars (s : State) (w : Word) : (setRdata w s).chars = s.chars := rfl
@[simp] theorem setRdata_results (s : State) (w : Word) : (setRdata w s).results = s.results := rfl
@[simp] theorem setRdata_pend (s : State) (w : Word) : (setRdata w s).pend = s.pend := rfl
@[simp] theorem setRdata_inputs (s : State) (w : Word) : (setRdata w s).inputs = s.inputs := rfl
@[simp] theorem setRdata_rdata (s : State) (w : Word) : (setRdata w s).rdata = w := rfl
@[simp] theorem setRdata_issued (s : State) (w : Word) : (setRdata w s).issued = s.issued := rfl
@[simp] theorem setRdata_countdown (s : State) (w : Word) : (setRdata w s).countdown = s.countdown := rfl

/-! ## setInputs -/

@[simp] theorem setInputs_op (s : State) (l : List HostInput) : (setInputs l s).op = s.op := rfl
@[simp] theorem setInputs_sym (s : State) (l : List HostInput) : (setInputs l s).sym = s.sym := rfl
@[simp] theorem setInputs_inLen (s : State) (l : List HostInput) : (setInputs l s).inLen = s.inLen := rfl
@[simp] theorem setInputs_busy (s : State) (l : List HostInput) : (setInputs l s).busy = s.busy := rfl
@[simp] theorem setInputs_rvalid (s : State) (l : List HostInput) : (setInputs l s).rvalid = s.rvalid := rfl
@[simp] theorem setInputs_err (s : State) (l : List HostInput) : (setInputs l s).err = s.err := rfl
@[simp] theorem setInputs_chars (s : State) (l : List HostInput) : (setInputs l s).chars = s.chars := rfl
@[simp] theorem setInputs_results (s : State) (l : List HostInput) : (setInputs l s).results = s.results := rfl
@[simp] theorem setInputs_pend (s : State) (l : List HostInput) : (setInputs l s).pend = s.pend := rfl
@[simp] theorem setInputs_inputs (s : State) (l : List HostInput) : (setInputs l s).inputs = l := rfl
@[simp] theorem setInputs_rdata (s : State) (l : List HostInput) : (setInputs l s).rdata = s.rdata := rfl
@[simp] theorem setInputs_issued (s : State) (l : List HostInput) : (setInputs l s).issued = s.issued := rfl
@[simp] theorem setInputs_countdown (s : State) (l : List HostInput) : (setInputs l s).countdown = s.countdown := rfl

/-! ## setSchedule -/

@[simp] theorem setSchedule_op (s : State) (m n : Nat) : (setSchedule m n s).op = s.op := rfl
@[simp] theorem setSchedule_sym (s : State) (m n : Nat) : (setSchedule m n s).sym = s.sym := rfl
@[simp] theorem setSchedule_inLen (s : State) (m n : Nat) : (setSchedule m n s).inLen = s.inLen := rfl
@[simp] theorem setSchedule_busy (s : State) (m n : Nat) : (setSchedule m n s).busy = s.busy := rfl
@[simp] theorem setSchedule_rvalid (s : State) (m n : Nat) : (setSchedule m n s).rvalid = s.rvalid := rfl
@[simp] theorem setSchedule_err (s : State) (m n : Nat) : (setSchedule m n s).err = s.err := rfl
@[simp] theorem setSchedule_chars (s : State) (m n : Nat) : (setSchedule m n s).chars = s.chars := rfl
@[simp] theorem setSchedule_results (s : State) (m n : Nat) : (setSchedule m n s).results = s.results := rfl
@[simp] theorem setSchedule_pend (s : State) (m n : Nat) : (setSchedule m n s).pend = s.pend := rfl
@[simp] theorem setSchedule_inputs (s : State) (m n : Nat) : (setSchedule m n s).inputs = s.inputs := rfl
@[simp] theorem setSchedule_rdata (s : State) (m n : Nat) : (setSchedule m n s).rdata = s.rdata := rfl
@[simp] theorem setSchedule_issued (s : State) (m n : Nat) : (setSchedule m n s).issued = m := rfl
@[simp] theorem setSchedule_countdown (s : State) (m n : Nat) : (setSchedule m n s).countdown = n := rfl

end Sys2Proof.Machine
end

