-- ==== Sys2Proof/Laws/Ops.lean ====
section
/-! SUPPORT. What the register operations do: packing, window reads, acceptance, write-back, completion. -/

namespace Sys2Proof.Machine

/-! ## Packing -/

theorem getLsbD_bitWord (b : Bool) (i : Nat) : (bitWord b).getLsbD i = (decide (i = 0) && b) := by
  unfold bitWord
  cases b <;> cases i <;> simp

/-- Bit `i` of `n` packed cells is bit `i % w` of cell `i / w`, and 0 above the last cell. -/
theorem getLsbD_packCells {w : Nat} (hw : 0 < w) (cell : Nat → BitVec w) (n i : Nat) (hi : i < 32) :
    (packCells cell n).getLsbD i = (decide (i < w * n) && (cell (i / w)).getLsbD (i % w)) := by
  induction n with
  | zero => simp [packCells]
  | succ n ih =>
    have hsucc : w * (n + 1) = w * n + w := Nat.mul_succ w n
    simp only [packCells, BitVec.getLsbD_or, ih, BitVec.getLsbD_shiftLeft, BitVec.getLsbD_setWidth]
    by_cases h1 : i < w * n
    · simp [h1, hsucc, show i < w * n + w by omega]
    · by_cases h2 : i < w * n + w
      · obtain ⟨r, rfl⟩ : ∃ r, i = w * n + r := ⟨i - w * n, by omega⟩
        have hr : r < w := by omega
        rw [Nat.mul_add_div hw, Nat.div_eq_of_lt hr, Nat.mul_add_mod, Nat.mod_eq_of_lt hr]
        simp [hsucc, hi, hr, show r < 32 by omega]
      · have : w ≤ i - w * n := by omega
        simp [h1, hsucc, h2, BitVec.getLsbD_of_ge _ _ this]

/-- Bit `i` of a packed module sequence is its element `i`. -/
theorem getLsbD_packModules (ms : List Bool) (i : Nat) :
    (packModules ms).getLsbD i = (decide (i < 103) && ms.getD i false) := by
  induction ms generalizing i with
  | nil => simp [packModules]
  | cons m ms ih =>
    cases i with
    | zero => cases m <;> simp [packModules]
    | succ i =>
      have hone : (BitVec.ofBool m).getLsbD (i + 1) = false := BitVec.getLsbD_of_ge _ _ (by omega)
      simp only [packModules, BitVec.getLsbD_or, BitVec.getLsbD_shiftLeft, BitVec.getLsbD_setWidth, ih, hone,
        Nat.add_sub_cancel, List.getD_cons_succ]
      by_cases h : i + 1 < 103
      · simp [h, show i < 103 by omega]
      · simp [h]

theorem digitCell_toNat (d : Digit) : (digitCell d).toNat = d.val := by
  have := d.isLt
  simp only [digitCell, BitVec.toNat_ofNat]
  omega

/-- Cell `k` of a packed digit string is its digit `k`, and 0 after the last. -/
theorem packDigits_toNat (ds : List Digit) (k : Fin 13) : (packDigits ds)[k].toNat = (ds.getD k.val 0).val := by
  simp only [packDigits, Fin.getElem_fin, Vector.getElem_ofFn, List.getD_eq_getElem?_getD]
  cases ds[k.val]? <;> simp [digitCell_toNat]

theorem storeInChar_getElem (j : Nat) (w : Word) (cells : Vector Byte 16) (k : Fin 16) :
    (storeInChar j w cells)[k] = if k.val / 4 = j then w.extractLsb' (8 * (k.val % 4)) 8 else cells[k] := by
  simp [storeInChar]

/-! ## Acceptance, write-back, completion -/

/-- Acceptance field by field (R101). -/
theorem accept_eq (s : State) : accept s = { s with
    pend := ⟨s.op, s.sym, s.inLen, s.chars⟩, busy := true, rvalid := false, err := 0,
    issued := s.issued + 1, countdown := Config.latency s.issued } := rfl

theorem issue_eq (op : BitVec 3) (s : State) : issue op s = { s with
    op := op, pend := ⟨op, s.sym, s.inLen, s.chars⟩, busy := true, rvalid := false, err := 0,
    issued := s.issued + 1, countdown := Config.latency s.issued } := rfl

theorem writeOk_eq (res : CmdResult) (s : State) :
    writeOk res s = { s with rvalid := true, err := 0, results := resultsOf res } := rfl

theorem writeErr_eq (kind : ErrorKind) (s : State) :
    writeErr kind s = { s with rvalid := false, err := errorCode kind, results := Results.zero } := rfl

theorem errorCode_ne_zero (kind : ErrorKind) : errorCode kind ≠ 0 := by
  cases kind <;> decide

/-- A completion of a command that succeeds (R104, R109). -/
theorem complete_ok {eval : Operands → CmdOutcome} {s : State} {res : CmdResult}
    (h : eval (operandsOf s.pend) = .ok res) :
    complete eval s = { s with busy := false, rvalid := true, err := 0, results := resultsOf res } := by
  simp only [complete, writeBack, h, writeOk_eq]
  rfl

/-- A completion of a command that fails (R104, R110). -/
theorem complete_error {eval : Operands → CmdOutcome} {s : State} {kind : ErrorKind}
    (h : eval (operandsOf s.pend) = .error kind) :
    complete eval s =
      { s with busy := false, rvalid := false, err := errorCode kind, results := Results.zero } := by
  simp only [complete, writeBack, h, writeErr_eq]
  rfl

/-- Everything a command's step can do: accept, complete, or drop. It always answers. -/
theorem runCommand_cases {op : BitVec 3} {eval : Operands → CmdOutcome} {s : State} {o : Host.Outcome State Fault Refusal}
    (h : runCommand op eval s = o) :
    (s.busy = false ∧ o = .next (issue op s)) ∨
    (s.busy = true ∧ s.pend.op = op ∧ o = .next (complete eval s)) ∨
    (s.busy = true ∧ s.pend.op ≠ op ∧ o = .next s) := by
  unfold runCommand at h
  split at h
  · split at h
    · exact .inr (.inl ⟨‹_›, ‹_›, h.symm⟩)
    · exact .inr (.inr ⟨‹_›, ‹_›, h.symm⟩)
  · exact .inl ⟨by simpa using ‹¬ s.busy = true›, h.symm⟩

theorem runCommand_idle {op : BitVec 3} {eval : Operands → CmdOutcome} {s : State} (h : s.busy = false) :
    runCommand op eval s = .next (issue op s) := by
  simp [runCommand, h]

theorem runCommand_pending {op : BitVec 3} {eval : Operands → CmdOutcome} {s : State}
    (hb : s.busy = true) (hp : s.pend.op = op) : runCommand op eval s = .next (complete eval s) := by
  simp [runCommand, hb, hp]

end Sys2Proof.Machine
end

