-- ==== Sys2Proof/Laws/Exec.lean ====
section
/-! SUPPORT. exec in terms of the command cycle: which code and which command function each command runs with. -/

namespace Sys2Proof.Machine

/-! ## hostPassed, completed and issue, field by field -/

@[simp] theorem hostPassed_op (s : State) (rest : List HostInput) : (hostPassed s rest).op = s.op := rfl
@[simp] theorem hostPassed_sym (s : State) (rest : List HostInput) : (hostPassed s rest).sym = s.sym := rfl
@[simp] theorem hostPassed_inLen (s : State) (rest : List HostInput) : (hostPassed s rest).inLen = s.inLen := rfl
@[simp] theorem hostPassed_busy (s : State) (rest : List HostInput) : (hostPassed s rest).busy = s.busy := rfl
@[simp] theorem hostPassed_rvalid (s : State) (rest : List HostInput) : (hostPassed s rest).rvalid = s.rvalid := rfl
@[simp] theorem hostPassed_err (s : State) (rest : List HostInput) : (hostPassed s rest).err = s.err := rfl
@[simp] theorem hostPassed_chars (s : State) (rest : List HostInput) : (hostPassed s rest).chars = s.chars := rfl
@[simp] theorem hostPassed_results (s : State) (rest : List HostInput) : (hostPassed s rest).results = s.results := rfl
@[simp] theorem hostPassed_pend (s : State) (rest : List HostInput) : (hostPassed s rest).pend = s.pend := rfl
@[simp] theorem hostPassed_inputs (s : State) (rest : List HostInput) : (hostPassed s rest).inputs = rest := rfl
@[simp] theorem hostPassed_rdata (s : State) (rest : List HostInput) : (hostPassed s rest).rdata = s.rdata := rfl
@[simp] theorem hostPassed_issued (s : State) (rest : List HostInput) : (hostPassed s rest).issued = s.issued := rfl
@[simp] theorem hostPassed_countdown (s : State) (rest : List HostInput) : (hostPassed s rest).countdown = s.countdown - 1 := rfl

@[simp] theorem completed_op (s : State) (v : Bool) (e : BitVec 4) (r : Results) : (completed s v e r).op = s.op := rfl
@[simp] theorem completed_sym (s : State) (v : Bool) (e : BitVec 4) (r : Results) : (completed s v e r).sym = s.sym := rfl
@[simp] theorem completed_inLen (s : State) (v : Bool) (e : BitVec 4) (r : Results) : (completed s v e r).inLen = s.inLen := rfl
@[simp] theorem completed_busy (s : State) (v : Bool) (e : BitVec 4) (r : Results) : (completed s v e r).busy = false := rfl
@[simp] theorem completed_rvalid (s : State) (v : Bool) (e : BitVec 4) (r : Results) : (completed s v e r).rvalid = v := rfl
@[simp] theorem completed_err (s : State) (v : Bool) (e : BitVec 4) (r : Results) : (completed s v e r).err = e := rfl
@[simp] theorem completed_chars (s : State) (v : Bool) (e : BitVec 4) (r : Results) : (completed s v e r).chars = s.chars := rfl
@[simp] theorem completed_results (s : State) (v : Bool) (e : BitVec 4) (r : Results) : (completed s v e r).results = r := rfl
@[simp] theorem completed_pend (s : State) (v : Bool) (e : BitVec 4) (r : Results) : (completed s v e r).pend = s.pend := rfl
@[simp] theorem completed_inputs (s : State) (v : Bool) (e : BitVec 4) (r : Results) : (completed s v e r).inputs = s.inputs := rfl
@[simp] theorem completed_rdata (s : State) (v : Bool) (e : BitVec 4) (r : Results) : (completed s v e r).rdata = s.rdata := rfl
@[simp] theorem completed_issued (s : State) (v : Bool) (e : BitVec 4) (r : Results) : (completed s v e r).issued = s.issued := rfl
@[simp] theorem completed_countdown (s : State) (v : Bool) (e : BitVec 4) (r : Results) : (completed s v e r).countdown = s.countdown := rfl

@[simp] theorem issue_op (op : BitVec 3) (s : State) : (issue op s).op = op := rfl
@[simp] theorem issue_sym (op : BitVec 3) (s : State) : (issue op s).sym = s.sym := rfl
@[simp] theorem issue_inLen (op : BitVec 3) (s : State) : (issue op s).inLen = s.inLen := rfl
@[simp] theorem issue_busy (op : BitVec 3) (s : State) : (issue op s).busy = true := rfl
@[simp] theorem issue_rvalid (op : BitVec 3) (s : State) : (issue op s).rvalid = false := rfl
@[simp] theorem issue_err (op : BitVec 3) (s : State) : (issue op s).err = 0 := rfl
@[simp] theorem issue_chars (op : BitVec 3) (s : State) : (issue op s).chars = s.chars := rfl
@[simp] theorem issue_results (op : BitVec 3) (s : State) : (issue op s).results = s.results := rfl
@[simp] theorem issue_pend (op : BitVec 3) (s : State) : (issue op s).pend = ⟨op, s.sym, s.inLen, s.chars⟩ := rfl
@[simp] theorem issue_inputs (op : BitVec 3) (s : State) : (issue op s).inputs = s.inputs := rfl
@[simp] theorem issue_rdata (op : BitVec 3) (s : State) : (issue op s).rdata = s.rdata := rfl
@[simp] theorem issue_issued (op : BitVec 3) (s : State) : (issue op s).issued = s.issued + 1 := rfl
@[simp] theorem issue_countdown (op : BitVec 3) (s : State) : (issue op s).countdown = Config.latency s.issued := rfl

/-! ## Codes and command functions -/

theorem ofOpcode_opcode (i : Instr) : Instr.ofOpcode i.opcode = i := by
  cases i <;> rfl

theorem opcode_ofOpcode (op : BitVec 3) : (Instr.ofOpcode op).opcode = op := by
  revert op
  decide

theorem ofOpcode_ne_nop {op : BitVec 3} (h : op ≠ 0) : Instr.ofOpcode op ≠ .nop := by
  intro hn
  rw [← opcode_ofOpcode op, hn] at h
  exact h rfl

theorem opcode_ne_zero {i : Instr} (h : i ≠ .nop) : i.opcode ≠ 0 := by
  intro hz
  apply h
  rw [← ofOpcode_opcode i, hz]
  rfl

/-- Every command but NOP has a command function (R112). -/
theorem commandFunction_isSome {i : Instr} (h : i ≠ .nop) : ∃ eval, commandFunction i = some eval := by
  cases i <;> simp_all [commandFunction]

theorem exec_of_function {i : Instr} {eval : Operands → CmdOutcome} (h : commandFunction i = some eval) (s : State) :
    exec i s = runCommand i.opcode eval s := by
  cases i <;> simp only [commandFunction, reduceCtorEq, Option.some.injEq] at h <;> subst h <;> rfl

theorem exec_nop (s : State) : exec .nop s = if s.busy then .next s else .next (setOp 0 s) := rfl

/-- An idle unit accepts every command but NOP. -/
theorem exec_idle {i : Instr} (h : i ≠ .nop) {s : State} (hb : s.busy = false) :
    exec i s = .next (issue i.opcode s) := by
  obtain ⟨eval, he⟩ := commandFunction_isSome h
  rw [exec_of_function he, runCommand_idle hb]

/-- A pending command completes. -/
theorem exec_pending {i : Instr} {eval : Operands → CmdOutcome} (h : commandFunction i = some eval) {s : State}
    (hp : Pending i s) : exec i s = .next (complete eval s) := by
  rw [exec_of_function h, runCommand_pending hp.1 hp.2]

/-- Everything a completion leaves: STATUS and the result registers by the outcome, everything else as it was. -/
theorem complete_cases (eval : Operands → CmdOutcome) (s : State) :
    (∃ res, eval (operandsOf s.pend) = .ok res ∧ complete eval s = completed s true 0 (resultsOf res)) ∨
    (∃ kind, eval (operandsOf s.pend) = .error kind ∧
      complete eval s = completed s false (errorCode kind) Results.zero) := by
  cases h : eval (operandsOf s.pend) with
  | ok res => exact .inl ⟨res, rfl, complete_ok h⟩
  | error kind => exact .inr ⟨kind, rfl, complete_error h⟩

end Sys2Proof.Machine
end

