-- ==== Sys2Proof/Laws/Operands.lean ====
section
/-! SUPPORT. The character check (R108): when it answers a digit string, and which. -/

namespace Sys2Proof.Machine

theorem digitOf_eq_some {c : Byte} {d : Digit} : digitOf c = some d ↔ c.toNat = 0x30 + d.val := by
  have := d.isLt
  unfold digitOf
  split
  · rename_i h
    rw [Option.some.injEq, Fin.ext_iff]
    show c.toNat - 0x30 = d.val ↔ _
    omega
  · simp only [reduceCtorEq, false_iff]
    omega

theorem digitOf_eq_none {c : Byte} : digitOf c = none ↔ ¬ (0x30 ≤ c.toNat ∧ c.toNat ≤ 0x39) := by
  unfold digitOf
  split <;> simp_all

/-- The check answers `ds` exactly when the characters are the codes of `ds`, one for one. -/
theorem readDigits_eq_ok {cs : List Byte} {ds : List Digit} :
    readDigits cs = .ok ds ↔
      cs.length = ds.length ∧ ∀ k, k < ds.length → (cs.getD k 0).toNat = 0x30 + (ds.getD k 0).val := by
  induction cs generalizing ds with
  | nil =>
    cases ds with
    | nil => simp [readDigits]
    | cons d ds => simp [readDigits]
  | cons c cs ih =>
    cases ds with
    | nil =>
      simp only [readDigits]
      split
      · simp
      · split <;> simp
    | cons d ds =>
      have key : readDigits (c :: cs) = .ok (d :: ds) ↔ digitOf c = some d ∧ readDigits cs = .ok ds := by
        simp only [readDigits]
        split
        · simp_all
        · split <;> simp_all
      rw [key, ih, digitOf_eq_some]
      constructor
      · rintro ⟨h0, hlen, hk⟩
        refine ⟨by simp [hlen], fun k hlt => ?_⟩
        cases k with
        | zero => simpa using h0
        | succ k => simpa using hk k (by simpa using hlt)
      · rintro ⟨hlen, hk⟩
        refine ⟨by simpa using hk 0 (by simp), by simpa using hlen, fun k hlt => ?_⟩
        simpa using hk (k + 1) (by simpa using hlt)

/-- The check answers InvalidDigitError exactly when some character is no digit; it has no other error. -/
theorem readDigits_eq_error {cs : List Byte} {e : ErrorKind} :
    readDigits cs = .error e ↔
      e = .invalidDigit ∧ ∃ k, k < cs.length ∧ ¬ (0x30 ≤ (cs.getD k 0).toNat ∧ (cs.getD k 0).toNat ≤ 0x39) := by
  induction cs with
  | nil => simp [readDigits]
  | cons c cs ih =>
    have shift : (∃ k, k < (c :: cs).length ∧
          ¬ (0x30 ≤ ((c :: cs).getD k 0).toNat ∧ ((c :: cs).getD k 0).toNat ≤ 0x39)) ↔
        (¬ (0x30 ≤ c.toNat ∧ c.toNat ≤ 0x39)) ∨
          ∃ k, k < cs.length ∧ ¬ (0x30 ≤ (cs.getD k 0).toNat ∧ (cs.getD k 0).toNat ≤ 0x39) := by
      constructor
      · rintro ⟨k, hk, hbad⟩
        cases k with
        | zero => exact .inl (by simpa using hbad)
        | succ k => exact .inr ⟨k, by simpa using hk, by simpa using hbad⟩
      · rintro (h | ⟨k, hk, hbad⟩)
        · exact ⟨0, by simp, by simpa using h⟩
        · exact ⟨k + 1, by simpa using hk, by simpa using hbad⟩
    rw [shift]
    simp only [readDigits]
    split
    · rename_i h
      rw [digitOf_eq_none] at h
      simp only [Except.error.injEq, h, not_false_eq_true, true_or, and_true]
      exact eq_comm
    · rename_i d h
      have hok : 0x30 ≤ c.toNat ∧ c.toNat ≤ 0x39 := by
        by_contra hc
        rw [← digitOf_eq_none] at hc
        simp [hc] at h
      cases hr : readDigits cs with
      | error e' =>
        rw [hr] at ih
        simp only [hok, and_self, not_true_eq_false, false_or]
        exact ih
      | ok ds =>
        rw [hr] at ih
        simp only [reduceCtorEq, false_iff] at ih
        simp only [reduceCtorEq, hok, and_self, not_true_eq_false, false_or, false_iff]
        exact ih

/-- Everything the input check can answer (R107, R108, R203). -/
theorem checkInput_cases (ok : Bool) (o : Operands) :
    (ok = false ∧ checkInput ok o = .error .invalidLength) ∨
    (ok = true ∧ checkInput ok o = readDigits (o.chars.take o.len)) := by
  cases ok <;> simp [checkInput]

end Sys2Proof.Machine
end

