-- ==== Sys2Proof/Laws/Latch.lean ====
section
/-! SUPPORT. The latched characters and the input check (R73, R107, R108). -/

namespace Sys2Proof.Machine

theorem total_le (sym : Symbology) : total sym ≤ 13 := by
  cases sym <;> decide

theorem payload_add_one (sym : Symbology) : payload sym + 1 = total sym := by
  cases sym <;> rfl

theorem lengthAdmitted_le {i : Instr} {sym : Symbology} {len : Nat} (hr : readsInput i = true)
    (h : lengthAdmitted i sym len) : len ≤ total sym := by
  have := payload_add_one sym
  cases i <;> simp_all [readsInput, lengthAdmitted]; omega

/-- The characters the check reads are those of the latch, as long as the length is within the cells. -/
theorem latched_take {s : State} (h : latchedLen s ≤ 16) :
    ((operandsOf s.pend).chars.take (operandsOf s.pend).len).length = latchedLen s ∧
    ∀ k, k < latchedLen s →
      ((operandsOf s.pend).chars.take (operandsOf s.pend).len).getD k 0 = latchedChar s k := by
  have hlen : (operandsOf s.pend).len = latchedLen s := rfl
  have hc : (operandsOf s.pend).chars = s.pend.chars.toList := rfl
  rw [hlen, hc]
  refine ⟨by simp; omega, fun k hk => ?_⟩
  simp [latchedChar, List.getD_eq_getElem?_getD, hk]

theorem isPayloadLength_iff (s : State) :
    isPayloadLength (operandsOf s.pend) = true ↔ latchedLen s = payload s.pend.sym := beq_iff_eq

theorem isTotalLength_iff (s : State) :
    isTotalLength (operandsOf s.pend) = true ↔ latchedLen s = total s.pend.sym := beq_iff_eq

theorem isAtMostTotal_iff (s : State) :
    isAtMostTotal (operandsOf s.pend) = true ↔ latchedLen s ≤ total s.pend.sym := decide_eq_true_iff

/-- A length that is not admitted fails the check, whatever the characters. -/
theorem checkInput_of_length {ok : Bool} (o : Operands) (hok : ¬ ok = true) :
    checkInput ok o = .error .invalidLength := by
  rw [checkInput, if_neg hok]

/-- A latch that holds the digits `D` passes the check with `D`. -/
theorem checkInput_of_holds {s : State} {D : List Digit} {ok : Bool} (hok : ok = true) (h16 : latchedLen s ≤ 16)
    (h : LatchHolds s D) : checkInput ok (operandsOf s.pend) = .ok D := by
  obtain ⟨hl, hk⟩ := latched_take h16
  rw [checkInput, if_pos hok, readDigits_eq_ok]
  exact ⟨hl.trans h.1.symm, fun k hlt => by rw [hk k (h.1 ▸ hlt)]; exact h.2 k hlt⟩

/-- A latch with a character that is no digit fails the check. -/
theorem checkInput_of_bad {s : State} {ok : Bool} (hok : ok = true) (h16 : latchedLen s ≤ 16)
    (h : LatchHasBadChar s) : checkInput ok (operandsOf s.pend) = .error .invalidDigit := by
  obtain ⟨hl, hk⟩ := latched_take h16
  obtain ⟨k, hlt, hbad⟩ := h
  rw [checkInput, if_pos hok, readDigits_eq_error]
  refine ⟨rfl, k, hl ▸ hlt, ?_⟩
  rw [hk k hlt]
  simpa [isDigitChar] using hbad

/-- The latch either holds digits or has a bad character. -/
theorem holds_or_bad (s : State) (h16 : latchedLen s ≤ 16) : (∃ D, LatchHolds s D) ∨ LatchHasBadChar s := by
  obtain ⟨hl, hk⟩ := latched_take h16
  cases hr : readDigits ((operandsOf s.pend).chars.take (operandsOf s.pend).len) with
  | ok D =>
    obtain ⟨hlen, hD⟩ := readDigits_eq_ok.mp hr
    refine .inl ⟨D, hlen.symm.trans hl, fun k hlt => ?_⟩
    rw [← hk k (by omega)]
    exact hD k hlt
  | error e =>
    obtain ⟨-, k, hlt, hbad⟩ := readDigits_eq_error.mp hr
    rw [hl] at hlt
    rw [hk k hlt] at hbad
    exact .inr ⟨k, hlt, by simpa [isDigitChar] using hbad⟩

end Sys2Proof.Machine
end

