-- ==== Sys2Proof/Laws/PerInstr.lean ====
section
/-! SUPPORT. Statements about every command as syntax, one lemma a constructor: the decoder reads every word that
matches a row of the opcode table under its mask as that row's command. -/

namespace Sys2Proof.Laws.MaskMatch

/-- A word that agrees with the command's row of the opcode table in the bits of the mask 0x00000007 decodes to it,
and its code fits the row's match value. -/
def Statement (i : Instr) : Prop :=
  i.wf = true ∧ i.opcode.setWidth 32 = tableMatch i ∧ ∀ w : Word, w &&& 0x00000007 = tableMatch i → decode w = i

theorem opField_of_masked {w m : Word} (h : w &&& 0x00000007 = m) : opField w = m.extractLsb' 0 3 := by
  subst h
  apply BitVec.eq_of_getLsbD_eq
  intro k hk
  have hmask : (0x00000007 : Word).getLsbD k = true := by
    match k, hk with
    | 0, _ => rfl
    | 1, _ => rfl
    | 2, _ => rfl
  rw [opField, BitVec.getLsbD_extractLsb', BitVec.getLsbD_extractLsb', BitVec.getLsbD_and, Nat.zero_add, hmask,
    Bool.and_true]

theorem decode_of_masked {w m : Word} {i : Instr} (h : w &&& 0x00000007 = m)
    (hi : Instr.ofOpcode (m.extractLsb' 0 3) = i) : decode w = i := by
  rw [decode, opField_of_masked h, hi]

theorem nop : Statement .nop := ⟨rfl, rfl, fun _ h => decode_of_masked h rfl⟩
theorem compute : Statement .compute := ⟨rfl, rfl, fun _ h => decode_of_masked h rfl⟩
theorem validate : Statement .validate := ⟨rfl, rfl, fun _ h => decode_of_masked h rfl⟩
theorem normalize : Statement .normalize := ⟨rfl, rfl, fun _ h => decode_of_masked h rfl⟩
theorem encode : Statement .encode := ⟨rfl, rfl, fun _ h => decode_of_masked h rfl⟩
theorem run : Statement .run := ⟨rfl, rfl, fun _ h => decode_of_masked h rfl⟩
theorem reserved6 : Statement .reserved6 := ⟨rfl, rfl, fun _ h => decode_of_masked h rfl⟩
theorem reserved7 : Statement .reserved7 := ⟨rfl, rfl, fun _ h => decode_of_masked h rfl⟩

end Sys2Proof.Laws.MaskMatch
end

