-- ==== Sys2Proof/Laws/Step.lean ====
section
/-! SUPPORT. Everything a step can do, said once. -/

namespace Sys2Proof.Machine

theorem takeInput_eq (rest : List HostInput) (s : State) : takeInput rest s = hostPassed s rest := rfl

theorem engineTurn_iff (s : State) :
    engineTurn s = true ↔ s.busy = true ∧ (s.countdown = 0 ∨ s.inputs = []) := by
  simp [engineTurn, List.isEmpty_iff]

theorem engineTurn_idle {s : State} (h : s.busy = false) : engineTurn s = false := by
  simp [engineTurn, h]

theorem step_engine {s : State} (h : engineTurn s = true) : step s = engineStep s := by
  simp [step, h]

theorem step_outside {s : State} (h : engineTurn s = false) : step s = hostStep s := by
  simp [step, h]

theorem step_input {s : State} {x : HostInput} {rest : List HostInput} (h : engineTurn s = false)
    (hi : s.inputs = x :: rest) : step s = hostInput x (hostPassed s rest) := by
  rw [step_outside h, hostStep, hi]
  rfl

theorem accessWf_iff (width : Width) (off : Nat) : accessWf width off = true ↔ width = .w32 ∧ off % 4 = 0 := by
  simp [accessWf]

/-- At the engine's turn: the completion of the latched command, or the fault of a latch that holds NOP. -/
theorem engineStep_cases (s : State) (hb : s.busy = true) :
    (s.pend.op = 0 ∧ engineStep s = .fault .nopPending) ∨
    (∃ eval, s.pend.op ≠ 0 ∧ commandFunction (Instr.ofOpcode s.pend.op) = some eval ∧
      engineStep s = .next (complete eval s)) := by
  by_cases h0 : s.pend.op = 0
  · exact .inl ⟨h0, by simp [engineStep, h0]⟩
  · obtain ⟨eval, he⟩ := commandFunction_isSome (ofOpcode_ne_nop h0)
    refine .inr ⟨eval, h0, he, ?_⟩
    rw [engineStep, if_neg h0, exec_pending he ⟨hb, (opcode_ofOpcode _).symm⟩]

/-- What an admitted host write can do: nothing (outside the window, busy, read-only, reserved), store CONFIG or
character cells, store 0 in CMD.OP (NOP), or be accepted as a command. -/
theorem hostWrite_next {a : BusAddr} {width : Width} {w : Word} {s t : State} (h : hostWrite a width w s = .next t) :
    t = s ∨
    (s.busy = false ∧ width = .w32 ∧
      (t = setConfig (symOfBit (w.getLsbD 0)) (w.extractLsb' 8 8) s ∨
       (∃ j, t = setChars (storeInChar j w s.chars) s) ∨
       (windowOffset a = some 0x00 ∧ opField w = 0 ∧ t = setOp 0 s) ∨
       (windowOffset a = some 0x00 ∧ opField w ≠ 0 ∧ t = issue (opField w) s))) := by
  unfold hostWrite at h
  split at h
  · exact .inl (by cases h; rfl)
  · rename_i off hoff
    split at h
    · rename_i hwf
      split at h
      · exact .inl (by cases h; rfl)
      · rename_i hb
        have hidle : s.busy = false := by simpa using hb
        have hw := ((accessWf_iff _ _).mp hwf).1
        split at h
        · rename_i hreg
          have h0 : off = 0 := by
            unfold regAt at hreg
            split at hreg <;> simp_all
          subst h0
          by_cases hop : opField w = 0
          · have hd : decode w = .nop := by rw [decode, hop]; rfl
            rw [hd, exec_nop, if_neg hb] at h
            exact .inr ⟨hidle, hw, .inr (.inr (.inl ⟨hoff, hop, by cases h; rfl⟩))⟩
          · rw [decode, exec_idle (ofOpcode_ne_nop hop) hidle, opcode_ofOpcode] at h
            exact .inr ⟨hidle, hw, .inr (.inr (.inr ⟨hoff, hop, by cases h; rfl⟩))⟩
        · rename_i r hr1 hr2
          have ht : t = storeReg r w s := by cases h; rfl
          cases r with
          | cmd => exact .inl ht
          | status => exact .inl ht
          | result => exact .inl ht
          | outDig j => exact .inl ht
          | mod j => exact .inl ht
          | config => exact .inr ⟨hidle, hw, .inl ht⟩
          | inChar j => exact .inr ⟨hidle, hw, .inr (.inl ⟨j, ht⟩)⟩
        · exact .inl (by cases h; rfl)
    · cases h

/-- What an admitted host read can do: return a register's value, or nothing outside the window. -/
theorem hostRead_next {a : BusAddr} {width : Width} {s t : State} (h : hostRead a width s = .next t) :
    t = s ∨ ∃ v, t = setRdata v s := by
  unfold hostRead at h
  split at h
  · exact .inl (by cases h; rfl)
  · split at h
    · exact .inr ⟨_, by cases h; rfl⟩
    · cases h

theorem hostPoll_eq (s : State) :
    hostPoll s = { s with rdata := readOffset s 0x08, inputs := if s.busy then .poll :: s.inputs else s.inputs } := by
  have hbit : (readOffset s 0x08).getLsbD 0 = s.busy := by
    show (statusWord s).getLsbD 0 = s.busy
    simp only [statusWord, BitVec.getLsbD_or, BitVec.getLsbD_shiftLeft, getLsbD_bitWord]
    simp
  unfold hostPoll
  simp only [setRdata_rdata, hbit]
  split <;> simp_all [setRdata, setInputs]

/-- Everything a step that answers a next state can do. `u` is the state in which the head input is carried out. -/
theorem step_next {s t : State} (h : step s = .next t) :
    (engineTurn s = true ∧ ∃ eval, s.pend.op ≠ 0 ∧ commandFunction (Instr.ofOpcode s.pend.op) = some eval ∧
      t = complete eval s) ∨
    (engineTurn s = false ∧ s.inputs = [] ∧ t = s) ∨
    (engineTurn s = false ∧ ∃ x rest, s.inputs = x :: rest ∧ ∃ u, u = hostPassed s rest ∧
      (t = u ∨ (∃ v, t = setRdata v u) ∨
       (x = .poll ∧ t = hostPoll u) ∨
       (x = .reset ∧ t = resetUnit u) ∨
       (∃ a w, x = .write a .w32 w ∧ s.busy = false ∧
         (t = setConfig (symOfBit (w.getLsbD 0)) (w.extractLsb' 8 8) u ∨
          (∃ j, t = setChars (storeInChar j w u.chars) u) ∨
          (windowOffset a = some 0x00 ∧ opField w = 0 ∧ t = setOp 0 u) ∨
          (windowOffset a = some 0x00 ∧ opField w ≠ 0 ∧ t = issue (opField w) u))))) := by
  cases he : engineTurn s with
  | true =>
    rw [step_engine he] at h
    obtain ⟨-, hf⟩ | ⟨eval, h0, hc, hn⟩ := engineStep_cases s ((engineTurn_iff s).mp he).1
    · rw [hf] at h; cases h
    · rw [hn] at h
      exact .inl ⟨rfl, eval, h0, hc, by cases h; rfl⟩
  | false =>
    refine .inr ?_
    cases hi : s.inputs with
    | nil =>
      rw [step_outside he, hostStep, hi] at h
      exact .inl ⟨rfl, rfl, by cases h; rfl⟩
    | cons x rest =>
      rw [step_input he hi] at h
      refine .inr ⟨rfl, x, rest, rfl, hostPassed s rest, rfl, ?_⟩
      cases x with
      | write a width w =>
        obtain rfl | ⟨hb, rfl, hcases⟩ := hostWrite_next h
        · exact .inl rfl
        · exact .inr (.inr (.inr (.inr ⟨a, w, rfl, hb, hcases⟩)))
      | read a width =>
        obtain rfl | hv := hostRead_next h
        · exact .inl rfl
        · exact .inr (.inl hv)
      | poll => exact .inr (.inr (.inl ⟨rfl, by cases h; rfl⟩))
      | reset => exact .inr (.inr (.inr (.inl ⟨rfl, by cases h; rfl⟩)))

/-- The same, by its effect on the unit: a completion, reset, an acceptance, or a step that leaves STATUS, the
results and the latch alone, and the inputs too while the unit is busy. -/
theorem step_effect {s t : State} (h : step s = .next t) :
    (engineTurn s = true ∧ ∃ eval, s.pend.op ≠ 0 ∧ commandFunction (Instr.ofOpcode s.pend.op) = some eval ∧
      ((∃ res, eval (operandsOf s.pend) = .ok res ∧ t = completed s true 0 (resultsOf res)) ∨
       (∃ kind, eval (operandsOf s.pend) = .error kind ∧ t = completed s false (errorCode kind) Results.zero))) ∨
    (engineTurn s = false ∧ ∃ rest, s.inputs = .reset :: rest ∧
      t = { State.reset with inputs := rest, rdata := s.rdata, issued := s.issued }) ∨
    (engineTurn s = false ∧ s.busy = false ∧ ∃ a w rest, s.inputs = .write a .w32 w :: rest ∧
      windowOffset a = some 0x00 ∧ opField w ≠ 0 ∧ t = issue (opField w) (hostPassed s rest)) ∨
    (engineTurn s = false ∧ t.busy = s.busy ∧ t.rvalid = s.rvalid ∧ t.err = s.err ∧ t.results = s.results ∧
      t.pend = s.pend ∧
      (s.busy = true → t.op = s.op ∧ t.sym = s.sym ∧ t.inLen = s.inLen ∧ t.chars = s.chars)) := by
  obtain ⟨he, eval, h0, hf, rfl⟩ | ⟨he, -, rfl⟩ | ⟨he, x, rest, hi, u, rfl, hc⟩ := step_next h
  · refine .inl ⟨he, eval, h0, hf, ?_⟩
    obtain ⟨res, hr, hcc⟩ | ⟨kind, hr, hcc⟩ := complete_cases eval s
    · exact .inl ⟨res, hr, hcc⟩
    · exact .inr ⟨kind, hr, hcc⟩
  · exact .inr (.inr (.inr ⟨he, rfl, rfl, rfl, rfl, rfl, fun _ => ⟨rfl, rfl, rfl, rfl⟩⟩))
  · have quiet_idle : s.busy = false → ∀ p : Prop, s.busy = true → p := fun hb p hb' => by
      rw [hb] at hb'; cases hb'
    obtain rfl | ⟨v, rfl⟩ | ⟨rfl, rfl⟩ | ⟨rfl, rfl⟩ | ⟨a, w, rfl, hb, hw⟩ := hc
    · exact .inr (.inr (.inr ⟨he, rfl, rfl, rfl, rfl, rfl, fun _ => ⟨rfl, rfl, rfl, rfl⟩⟩))
    · exact .inr (.inr (.inr ⟨he, rfl, rfl, rfl, rfl, rfl, fun _ => ⟨rfl, rfl, rfl, rfl⟩⟩))
    · rw [hostPoll_eq]
      exact .inr (.inr (.inr ⟨he, rfl, rfl, rfl, rfl, rfl, fun _ => ⟨rfl, rfl, rfl, rfl⟩⟩))
    · exact .inr (.inl ⟨he, rest, hi, rfl⟩)
    · obtain rfl | ⟨j, rfl⟩ | ⟨ho, hz, rfl⟩ | ⟨ho, hz, rfl⟩ := hw
      · exact .inr (.inr (.inr ⟨he, by simp, by simp, by simp, by simp, by simp, quiet_idle hb _⟩))
      · exact .inr (.inr (.inr ⟨he, by simp, by simp, by simp, by simp, by simp, quiet_idle hb _⟩))
      · exact .inr (.inr (.inr ⟨he, by simp, by simp, by simp, by simp, by simp, quiet_idle hb _⟩))
      · exact .inr (.inr (.inl ⟨he, hb, a, w, rest, hi, ho, hz, rfl⟩))

/-- How one step changes what the outside world will still do: the engine leaves it, an outside step takes its first
input off, and a WAIT that saw BUSY = 1 puts its read back. -/
theorem step_inputs {s t : State} (h : step s = .next t) :
    (engineTurn s = true ∧ t.inputs = s.inputs ∧ t.countdown = s.countdown) ∨
    (engineTurn s = false ∧ s.inputs = [] ∧ t = s) ∨
    (engineTurn s = false ∧ ∃ x rest, s.inputs = x :: rest ∧
      t.inputs = (if x = .poll ∧ s.busy = true then x :: rest else rest) ∧
      (s.busy = true → x ≠ .reset → t.countdown = s.countdown - 1)) := by
  obtain ⟨he, eval, h0, hf, rfl⟩ | ⟨he, hi, rfl⟩ | ⟨he, x, rest, hi, u, rfl, hc⟩ := step_next h
  · obtain ⟨_, _, hcc⟩ | ⟨_, _, hcc⟩ := complete_cases eval s <;> rw [hcc] <;> exact .inl ⟨he, rfl, rfl⟩
  · exact .inr (.inl ⟨he, hi, rfl⟩)
  · refine .inr (.inr ⟨he, x, rest, hi, ?_⟩)
    by_cases hx : x = .poll
    · subst hx
      have ht : t = hostPoll (hostPassed s rest) := by
        rw [step_input he hi] at h
        cases h
        rfl
      rw [ht, hostPoll_eq]
      exact ⟨by cases hb : s.busy <;> simp [hostPassed, hb], fun _ _ => rfl⟩
    · rw [if_neg fun h => hx h.1]
      obtain rfl | ⟨v, rfl⟩ | ⟨hp, -⟩ | ⟨rfl, rfl⟩ | ⟨a, w, rfl, hb, hw⟩ := hc
      · exact ⟨by simp, fun _ _ => by simp⟩
      · exact ⟨by simp, fun _ _ => by simp⟩
      · exact absurd hp hx
      · exact ⟨rfl, fun _ hr => absurd rfl hr⟩
      · obtain rfl | ⟨j, rfl⟩ | ⟨-, -, rfl⟩ | ⟨-, -, rfl⟩ := hw <;>
          exact ⟨by simp, fun hb' _ => by rw [hb] at hb'; cases hb'⟩

end Sys2Proof.Machine
end

