-- ==== Sys2Proof/Tests/Slice0.lean ====
section
/-! SUPPORT. The model's own tests: ill-formed terms, command words, one step per command with the values of
spec/95_test_vectors.md, and a witness for the hypotheses of each statement. -/

namespace Sys2Proof.Tests

open Sys2Proof Sys2Proof.Machine

set_option Elab.async false

/-! ## Small states -/

/-- The ASCII codes of decimal digits. -/
def asc (ds : List Nat) : List Byte :=
  ds.map fun d => BitVec.ofNat 8 (0x30 + d)

/-- The sixteen character cells for a string. -/
def cells (text : List Byte) : Vector Byte 16 :=
  Vector.ofFn fun k => text.getD k.val 0

/-- The unit busy with a command, at its completion unless host steps are still to pass. -/
def busyWith (i : Instr) (sym : Symbology) (text : List Byte) (countdown : Nat := 0) (inputs : List HostInput := []) :
    State :=
  { State.reset with
    op := i.opcode, sym := sym, inLen := BitVec.ofNat 8 text.length, busy := true, chars := cells text
    pend := ⟨i.opcode, sym, BitVec.ofNat 8 text.length, cells text⟩
    inputs := inputs, countdown := countdown }

/-- An idle unit, after a failed command, whose CMD register holds 5. -/
def idleWith (inputs : List HostInput) : State :=
  { State.reset with op := 5, err := 2, inputs := inputs }

/-- Registers the host would read after a step. -/
def readAfter (o : Host.Outcome State Fault Refusal) (offs : List Nat) : List Word :=
  match o with
  | .next t => offs.map (readOffset t)
  | .fault _ => []
  | .refused _ => []

/-- Whether a step answers a next state with a property. -/
def nextHas (p : State → Bool) (o : Host.Outcome State Fault Refusal) : Bool :=
  match o with
  | .next t => p t
  | .fault _ => false
  | .refused _ => false

theorem nextHas_spec {p : State → Bool} {o : Host.Outcome State Fault Refusal} (h : nextHas p o = true) :
    ∃ t, o = .next t ∧ p t = true := by
  cases o with
  | next t => exact ⟨t, rfl, h⟩
  | fault r => cases h
  | refused r => cases h

/-! ## Ill-formed terms are refused -/

theorem test_wf_narrow_access : accessWf .w16 0x10 = false := by decide
theorem test_wf_wide_access : accessWf .w64 0x10 = false := by decide
theorem test_wf_misaligned_access : accessWf .w32 0x12 = false := by decide
theorem test_wf_word_access : accessWf .w32 0x10 = true := by decide
theorem test_wf_store_misaligned : (HostStmt.sw 0x02 0).wf = false := by decide
theorem test_wf_store_outside : (HostStmt.sw 0x40 0).wf = false := by decide
theorem test_wf_load_misaligned : (HostStmt.lw 0x0D "x").wf = false := by decide
theorem test_wf_load_outside : (HostStmt.lw 0x44 "x").wf = false := by decide
theorem test_wf_no_reserved_statement : (HostStmt.cmd .reserved6).wf = false := by decide
theorem test_wf_no_reserved_do : (HostStmt.doCmd .reserved7).wf = false := by decide
theorem test_wf_config_length : (HostStmt.config .upca 256).wf = false := by decide
theorem test_wf_string_length : (HostStmt.loadStr (List.replicate 17 0x30)).wf = false := by decide
theorem test_wf_commands : (HostStmt.doCmd .run).wf = true ∧ (HostStmt.config .upca 255).wf = true := by decide

/-! ## Command words (R70, R71, 95 section 2.7), bit by bit -/

theorem test_decode_nop : decode 0b00000000000000000000000000000000 = .nop := by decide
theorem test_decode_nop_ignored_bits : decode 0b00000000000000000000000000001000 = .nop := by decide
theorem test_decode_compute : decode 0b00000000000000000000000000000001 = .compute := by decide
theorem test_decode_validate : decode 0b00000000000000000000000000000010 = .validate := by decide
theorem test_decode_normalize : decode 0b00000000000000000000000000000011 = .normalize := by decide
theorem test_decode_encode : decode 0b00000000000000000000000000000100 = .encode := by decide
theorem test_decode_run : decode 0b00000000000000000000000000000101 = .run := by decide
theorem test_decode_run_ignored_bits : decode 0b00000000000000000000000000001101 = .run := by decide
theorem test_decode_reserved6 : decode 0b11111111111111111111111111111110 = .reserved6 := by decide
theorem test_decode_reserved7 : decode 0b00000000000000000000000000001111 = .reserved7 := by decide
theorem test_decode_too_long : decodeTableWord 33 5 = none := by decide
theorem test_decode_table_word : decodeTableWord 3 4 = some .encode := by decide

/-! ## One step per command (values of 95 sections 1 and 2) -/

/-- 2.1: check digit 1. -/
theorem test_compute_ean13 :
    readAfter (exec .compute (busyWith .compute .ean13 (asc [4,0,0,6,3,8,1,3,3,3,9,3]))) [0x08, 0x0C] =
      [0x00000002, 0x00000001] := by decide +kernel

/-- 2.1 and Scenario 3: check digit 2, which the literal "odd indices" reading would make 8. -/
theorem test_compute_upca :
    readAfter (exec .compute (busyWith .compute .upca (asc [0,3,6,0,0,0,2,9,1,4,5]))) [0x08, 0x0C, 0x20, 0x30] =
      [0x00000002, 0x00000002, 0, 0] := by decide +kernel

/-- Scenario 3: VALID = 1. -/
theorem test_validate_upca :
    readAfter (exec .validate (busyWith .validate .upca (asc [0,3,6,0,0,0,2,9,1,4,5,2]))) [0x08, 0x0C] =
      [0x00000002, 0x00000010] := by decide +kernel

/-- 2.2: a wrong check digit is VALID = 0, and no error (R202). -/
theorem test_validate_mismatch :
    readAfter (exec .validate (busyWith .validate .ean13 (asc [4,0,0,6,3,8,1,3,3,3,9,3,2]))) [0x08, 0x0C] =
      [0x00000002, 0x00000000] := by decide +kernel

/-- 1.2: "12345" padded to 12 digits. -/
theorem test_normalize_pads :
    readAfter (exec .normalize (busyWith .normalize .ean13 (asc [1,2,3,4,5]))) [0x0C, 0x20, 0x24] =
      [0x00000C00, 0x10000000, 0x00005432] := by decide +kernel

/-- 2.3: the empty string becomes eleven zeros. -/
theorem test_normalize_empty :
    readAfter (exec .normalize (busyWith .normalize .upca [])) [0x08, 0x0C, 0x20, 0x24] =
      [0x00000002, 0x00000B00, 0, 0] := by decide +kernel

/-- 2.4: an EAN-13 symbol, whose first digit 4 selects the parity LGLLGG. -/
theorem test_encode_ean13 :
    readAfter (exec .encode (busyWith .encode .ean13 (asc [4,0,0,6,3,8,1,3,3,3,9,3,1]))) [0x30, 0x34, 0x38, 0x3C] =
      [0xEF5CAC50, 0x28559A45, 0x6684BA14, 0x00000005] := by decide +kernel

/-- P5: a wrong check digit is encoded as it stands (R152). -/
theorem test_encode_wrong_check :
    readAfter (exec .encode (busyWith .encode .ean13 (asc [4,0,0,6,3,8,1,3,3,3,9,3,2]))) [0x08, 0x0C, 0x38] =
      [0x00000002, 0x00000000, 0x3684BA14] := by decide +kernel

/-- 1.2: RUN on "12345". -/
theorem test_run_payload :
    readAfter (exec .run (busyWith .run .ean13 (asc [1,2,3,4,5]))) [0x08, 0x0C, 0x20, 0x24, 0x30, 0x34, 0x38, 0x3C] =
      [0x00000002, 0x00000D17, 0x10000000, 0x00075432, 0x8B162C50, 0x6CD562C5, 0x22E4EA13, 0x00000005] := by
  decide +kernel

/-- 2.5: a full string that does not validate. -/
theorem test_run_mismatch :
    readAfter (exec .run (busyWith .run .upca (asc [3,6,0,0,0,2,9,1,4,5,2,7]))) [0x08, 0x0C, 0x20, 0x30] =
      [0x00000030, 0, 0, 0] := by decide +kernel

/-- 2.7: OP = 6, with inputs RUN would reject for another reason. -/
theorem test_reserved6 :
    readAfter (exec .reserved6 (busyWith .reserved6 .upca (asc [12]))) [0x00, 0x08, 0x0C] =
      [0x00000006, 0x00000050, 0] := by decide +kernel

/-- 2.7: OP = 7. -/
theorem test_reserved7 :
    readAfter (exec .reserved7 (busyWith .reserved7 .ean13 [])) [0x00, 0x08] =
      [0x00000007, 0x00000050] := by decide +kernel

/-- 2.7: NOP after a failed RUN leaves STATUS as it is. -/
theorem test_nop_idle :
    readAfter (step (idleWith [storeWord 0x00 0])) [0x00, 0x08] = [0, 0x00000020] := by decide +kernel

/-- R102: NOP while a command is pending is dropped. -/
theorem test_nop_busy :
    readAfter (exec .nop (busyWith .run .ean13 [])) [0x00, 0x08] = [0x00000005, 0x00000001] := by decide +kernel

/-! ## The register window (95 section 2.8) -/

theorem test_config_write :
    readAfter (step (idleWith [storeWord 0x04 0xFFFFFFFF])) [0x04] = [0x0000FF01] := by decide +kernel

theorem test_read_only_write :
    readAfter (step (idleWith [storeWord 0x08 0x00000001])) [0x08, 0x0C] = [0x00000020, 0] := by decide +kernel

theorem test_busy_write_dropped :
    readAfter (step (busyWith .run .ean13 [] 1 [storeWord 0x10 0x39393939])) [0x08, 0x10] = [0x00000001, 0] := by
  decide +kernel

theorem test_halfword_write_refused :
    step (idleWith [.write (.window 0x10) .w16 0]) = .refused .accessForm := by rfl

/-- Program P1's writes (R83): CONFIG and the characters of "12345". -/
theorem test_statement_words :
    expandProgram [.config .ean13 5, .loadStr (asc [1,2,3,4,5]), .cmd .run] =
      [storeWord 0x04 0x00000500, storeWord 0x10 0x34333231, storeWord 0x14 0x00000035, storeWord 0x18 0,
       storeWord 0x1C 0, storeWord 0x00 0x00000005] := by decide +kernel

/-- R101, R105: an accepted RUN shows BUSY with the old results gone from STATUS. -/
theorem test_acceptance :
    readAfter (step (idleWith [storeWord 0x00 0x0000000D])) [0x00, 0x08] = [0x00000005, 0x00000001] := by
  decide +kernel

/-! ## Witnesses: states and operands that meet the hypotheses of the statements, at the ends of their ranges -/

/-- A completed COMPUTE on the payload of Scenario 3, still reporting its result. -/
def reporting : State :=
  { busyWith .compute .upca (asc [0,3,6,0,0,0,2,9,1,4,5]) with
    busy := false, rvalid := true, results := { Results.zero with check := 2 } }

theorem witness_DecodeReadsOnlyOpField :
    (∀ b, b < 3 → (0x0000000D : Word).getLsbD b = (0xFFFFFFFD : Word).getLsbD b) ∧
    (0x00000005 : Word).getLsbD 2 ≠ (0x00000001 : Word).getLsbD 2 := by decide

theorem witness_TableProperties : (0 : Digit) ≠ 9 ∧ (1 : Digit) ≠ 0 := by decide

theorem witness_ValidIsWeightedSum : (0 < 1 ∧ 0 < 13) ∧ (0 < 2 - 1 ∧ 11 < 13 - 1) := by decide

theorem witness_ChecksumSumsFitEightBits :
    (List.replicate 12 (9 : Digit)).length = 12 ∧ (List.replicate 11 (9 : Digit)).length = 11 ∧
    (List.replicate 13 (9 : Digit)).length = 13 := by decide

theorem witness_TranspositionByFiveUnseen :
    ((0 : Digit).val + 5 = (5 : Digit).val) ∧ ((4 : Digit).val + 5 = (9 : Digit).val) := by decide

theorem witness_NormalizePads_payload : ([] : List Digit).length ≤ payload .ean13 ∧
    ([0,3,6,0,0,0,2,9,1,4,5] : List Digit).length = payload .upca := by decide

theorem witness_NormalizePads_total : ([4,0,0,6,3,8,1,3,3,3,9,3,1] : List Digit).length ≤ total .ean13 ∧
    ([4,0,0,6,3,8,1,3,3,3,9,3,1] : List Digit).length = total .ean13 := by decide

theorem witness_SymbolClosedForm : (0 ≤ 3 ∧ 3 ≤ 3) ∧ (99 ≤ 99 ∧ 102 ≤ 102) ∧ (5 < 6 ∧ 6 < 7) := by decide

theorem witness_SymbolStructure : 0 < 6 ∧ 5 < 6 := by decide

theorem witness_UpcaRunMatchesEan13Run :
    let s := busyWith .run .upca (asc [3,6,0,0,0,2,9,1,4,5,2])
    let s' := busyWith .run .ean13 (asc [3,6,0,0,0,2,9,1,4,5,2])
    Pending .run s ∧ Pending .run s' ∧ s.pend.sym = .upca ∧ s'.pend.sym = .ean13 ∧
    latchedLen s = latchedLen s' ∧ latchedLen s = 11 ∧
    (∀ k, k < latchedLen s → latchedChar s k = latchedChar s' k) ∧
    (∀ k, k < latchedLen s → isDigitChar (latchedChar s k) = true) := by
  unfold Pending
  decide +kernel

theorem witness_ControlRegisterBits : 0 < 32 ∧ 31 < 32 := by decide

theorem witness_DataRegisterBits : 20 ≤ 31 ∧ (0 < 103 ∧ 102 < 103) ∧ 7 ≤ 31 := by decide

theorem witness_ReadReturnsRegister_busy :
    let s := busyWith .run .ean13 [] 1 [.read (.window 0x3C) .w32]
    engineTurn s = false ∧ s.inputs = .read (.window 0x3C) .w32 :: [] ∧
    windowOffset (.window 0x3C) = some 0x3C ∧ 0x3C % 4 = 0 := by decide +kernel

theorem witness_ReadReturnsRegister_idle :
    let s := idleWith [.read (.window 0) .w32]
    engineTurn s = false ∧ s.inputs = .read (.window 0) .w32 :: [] ∧
    windowOffset (.window 0) = some 0 ∧ 0 % 4 = 0 := by decide +kernel

theorem witness_ConfigWriteStores :
    let s := idleWith [storeWord 0x04 0xFFFFFFFF]
    s.busy = false ∧ s.inputs = .write (.window 0x04) .w32 0xFFFFFFFF :: [] ∧
    windowOffset (.window 0x04) = some 0x04 := by decide +kernel

theorem witness_InCharWriteStores :
    let s := idleWith [storeWord 0x1C 0x33393333]
    s.busy = false ∧ 3 < 4 ∧ s.inputs = .write (.window 0x1C) .w32 0x33393333 :: [] ∧
    windowOffset (.window 0x1C) = some (0x10 + 4 * 3) := by decide +kernel

theorem witness_ReadOnlyWritesIgnored :
    let s := idleWith [storeWord 0x28 0x12345678]
    engineTurn s = false ∧ s.inputs = .write (.window 0x28) .w32 0x12345678 :: [] ∧
    windowOffset (.window 0x28) = some 0x28 ∧
    0x28 ∈ [0x08, 0x0C, 0x20, 0x24, 0x28, 0x2C, 0x30, 0x34, 0x38, 0x3C] := by decide +kernel

theorem witness_BusyWritesDropped :
    let s := busyWith .validate .ean13 [] 1 [storeWord 0x00 4]
    s.busy = true ∧ s.countdown ≠ 0 ∧ s.inputs = .write (.window 0) .w32 4 :: [] ∧
    windowOffset (.window 0) = some 0 ∧ 0 % 4 = 0 := by decide +kernel

theorem witness_OddAccessRefused_width :
    let s := idleWith [.write (.window 0x3C) .w8 0]
    engineTurn s = false ∧ s.inputs = .write (.window 0x3C) .w8 0 :: [] ∧
    windowOffset (.window 0x3C) = some 0x3C ∧ Width.w8 ≠ .w32 := by decide +kernel

theorem witness_OddAccessRefused_alignment :
    let s := busyWith .run .upca [] 1 [.read (.window 0x3F) .w32]
    engineTurn s = false ∧ s.inputs = .read (.window 0x3F) .w32 :: [] ∧
    windowOffset (.window 0x3F) = some 0x3F ∧ 0x3F % 4 ≠ 0 := by decide +kernel

theorem witness_AddressDecode :
    let s := idleWith [.write (.window 0x40) .w8 0]
    engineTurn s = false ∧ s.inputs = .write (.window 0x40) .w8 0 :: [] ∧ windowOffset (.window 0x40) = none ∧
    (0 < 64 ∧ 63 < 64) ∧ Config.base + 64 ≤ Config.base + 64 :=
  ⟨by decide +kernel, by decide +kernel, by decide +kernel, by decide, le_refl _⟩

theorem witness_CmdWriteRunsDecoded :
    let s := idleWith [storeWord 0x00 0xFFFFFFFE]
    s.busy = false ∧ s.inputs = .write (.window 0) .w32 0xFFFFFFFE :: [] ∧
    windowOffset (.window 0) = some 0x00 := by decide +kernel

theorem witness_EngineStepRunsLatched_countdown :
    let s := busyWith .run .ean13 [] 0 [.poll]
    s.busy = true ∧ s.countdown = 0 ∧ s.pend.op ≠ 0 := by decide +kernel

theorem witness_EngineStepRunsLatched_noInput :
    let s := busyWith .compute .ean13 [] 7 []
    s.busy = true ∧ s.inputs = [] ∧ s.pend.op ≠ 0 := by decide +kernel

theorem witness_OutsideTurn :
    ((idleWith [.poll]).busy = false ∧ (idleWith [.poll]).inputs = .poll :: []) ∧
    ((busyWith .run .ean13 [] 1 [.reset]).countdown ≠ 0 ∧
      (busyWith .run .ean13 [] 1 [.reset]).inputs = .reset :: []) ∧
    (State.reset.busy = false ∧ State.reset.inputs = []) := by decide +kernel

theorem witness_PlacedCommandRunsNext :
    decodeTableWord 32 5 ≠ some .nop ∧ decodeTableWord 32 0xFFFFFFF8 = some .nop := by decide +kernel

theorem witness_AcceptanceLatchesInputs : Instr.reserved7 ≠ .nop ∧ (idleWith []).busy = false := by decide +kernel

theorem witness_NopStoresZeroOnly :
    (∀ b, b < 3 → (0xFFFFFFF8 : Word).getLsbD b = false) ∧ (idleWith []).busy = false ∧
    (busyWith .run .ean13 []).busy = true := by decide +kernel

theorem witness_NopStoresZeroOnly_writes :
    let s := idleWith [storeWord 0x00 0xFFFFFFF8]
    let s' := busyWith .run .ean13 [] 1 [storeWord 0x00 0xFFFFFFF8]
    (engineTurn s = false ∧ s.inputs = .write (.window 0) .w32 0xFFFFFFF8 :: [] ∧ s.busy = false) ∧
    (engineTurn s' = false ∧ s'.inputs = .write (.window 0) .w32 0xFFFFFFF8 :: [] ∧ s'.busy = true) ∧
    windowOffset (.window 0) = some 0x00 := by decide +kernel

theorem witness_ComputeCompletes :
    let s := busyWith .compute .ean13 (asc [4,0,0,6,3,8,1,3,3,3,9,3])
    Pending .compute s ∧ latchedLen s = payload s.pend.sym ∧ LatchHolds s [4,0,0,6,3,8,1,3,3,3,9,3] := by
  unfold Pending LatchHolds
  decide +kernel

theorem witness_ValidateCompletes :
    let s := busyWith .validate .upca (asc [0,3,6,0,0,0,2,9,1,4,5,2])
    Pending .validate s ∧ latchedLen s = total s.pend.sym ∧ LatchHolds s [0,3,6,0,0,0,2,9,1,4,5,2] := by
  unfold Pending LatchHolds
  decide +kernel

theorem witness_NormalizeCompletes_empty :
    let s := busyWith .normalize .upca []
    Pending .normalize s ∧ latchedLen s ≤ total s.pend.sym ∧ LatchHolds s [] := by
  unfold Pending LatchHolds
  decide +kernel

theorem witness_NormalizeCompletes_full :
    let s := busyWith .normalize .ean13 (asc [4,0,0,6,3,8,1,3,3,3,9,3,2])
    Pending .normalize s ∧ latchedLen s = total s.pend.sym ∧ LatchHolds s [4,0,0,6,3,8,1,3,3,3,9,3,2] := by
  unfold Pending LatchHolds
  decide +kernel

theorem witness_EncodeCompletes :
    let s := busyWith .encode .ean13 (asc [4,0,0,6,3,8,1,3,3,3,9,3,2])
    Pending .encode s ∧ latchedLen s = total s.pend.sym ∧ LatchHolds s [4,0,0,6,3,8,1,3,3,3,9,3,2] := by
  unfold Pending LatchHolds
  decide +kernel

theorem witness_RunCompletesPayload :
    let s := busyWith .run .ean13 (asc [4,0,0,6,3,8,1,3,3,3,9,3])
    Pending .run s ∧ latchedLen s = payload s.pend.sym ∧ LatchHolds s [4,0,0,6,3,8,1,3,3,3,9,3] ∧
    ([4,0,0,6,3,8,1,3,3,3,9,3,1] : List Digit) =
      List.replicate (payload s.pend.sym - 12) 0 ++ [4,0,0,6,3,8,1,3,3,3,9,3] ++
        [checkDigit [4,0,0,6,3,8,1,3,3,3,9,3]] := by
  unfold Pending LatchHolds
  decide +kernel

theorem witness_RunCompletesFullString :
    let s := busyWith .run .upca (asc [0,3,6,0,0,0,2,9,1,4,5,2])
    Pending .run s ∧ latchedLen s = total s.pend.sym ∧ LatchHolds s [0,3,6,0,0,0,2,9,1,4,5,2] ∧
    validDigits [0,3,6,0,0,0,2,9,1,4,5,2] = true := by
  unfold Pending LatchHolds
  decide +kernel

theorem witness_RunRejectsMismatch :
    let s := busyWith .run .upca (asc [3,6,0,0,0,2,9,1,4,5,2,7])
    Pending .run s ∧ latchedLen s = total s.pend.sym ∧ LatchHolds s [3,6,0,0,0,2,9,1,4,5,2,7] ∧
    validDigits [3,6,0,0,0,2,9,1,4,5,2,7] = false := by
  unfold Pending LatchHolds
  decide +kernel

theorem witness_ReservedCompletesIllegal :
    Pending .reserved6 (busyWith .reserved6 .ean13 []) ∧ Pending .reserved7 (busyWith .reserved7 .upca []) := by
  unfold Pending
  decide +kernel

/-- L = 14 with a bad character: the length is tested first. -/
theorem witness_LengthErrorReported :
    let s := busyWith .run .ean13 (asc [1,2,49,4,5,6,7,8,9,0,1,2,3,72])
    readsInput .run = true ∧ Pending .run s ∧ ¬ lengthAdmitted .run s.pend.sym (latchedLen s) := by
  unfold Pending lengthAdmitted
  decide +kernel

/-- ':' is the first character after '9'. -/
theorem witness_DigitErrorReported :
    let s := busyWith .run .ean13 [0x3A]
    readsInput .run = true ∧ Pending .run s ∧ lengthAdmitted .run s.pend.sym (latchedLen s) ∧ LatchHasBadChar s :=
  ⟨by decide, by unfold Pending; decide +kernel, by unfold lengthAdmitted; decide +kernel, 0, by decide +kernel⟩

theorem witness_ErrorPriority_reserved :
    Instr.reserved7 ≠ .nop ∧ Pending .reserved7 (busyWith .reserved7 .ean13 []) := by
  unfold Pending
  decide +kernel

theorem witness_ErrorPriority_length :
    let s := busyWith .compute .ean13 (asc [0,3,6,0,0,0,2,9,1,4,5])
    Pending .compute s ∧ readsInput .compute = true ∧ ¬ lengthAdmitted .compute s.pend.sym (latchedLen s) := by
  unfold Pending lengthAdmitted
  decide +kernel

/-- '/' is the last character before '0'. -/
theorem witness_ErrorPriority_digit :
    let s := busyWith .normalize .upca [0x30, 0x2F]
    Pending .normalize s ∧ readsInput .normalize = true ∧
    lengthAdmitted .normalize s.pend.sym (latchedLen s) ∧ LatchHasBadChar s :=
  ⟨by unfold Pending; decide +kernel, by decide, by unfold lengthAdmitted; decide +kernel, 1, by decide +kernel⟩

theorem witness_ErrorPriority_digits :
    let s := busyWith .run .ean13 (asc [4,0,0,6,3,8,1,3,3,3,9,3,2])
    Pending .run s ∧ readsInput .run = true ∧ lengthAdmitted .run s.pend.sym (latchedLen s) ∧
    LatchHolds s [4,0,0,6,3,8,1,3,3,3,9,3,2] ∧ latchedLen s = total s.pend.sym ∧
    validDigits [4,0,0,6,3,8,1,3,3,3,9,3,2] = false := by
  unfold Pending lengthAdmitted LatchHolds
  decide +kernel

theorem witness_RunNeverReportsCodeFour : Pending .run (busyWith .run .ean13 []) := by
  unfold Pending
  decide +kernel

/-- A success (error code 0) and a failure. -/
theorem witness_CompletionFrame :
    (Pending .run (busyWith .run .ean13 []) ∧ readAfter (exec .run (busyWith .run .ean13 [])) [0x08] = [0x02]) ∧
    (Pending .encode (busyWith .encode .ean13 []) ∧
      readAfter (exec .encode (busyWith .encode .ean13 [])) [0x08] = [0x10]) := by
  unfold Pending
  decide +kernel

/-- Two states whose characters beyond L differ. -/
theorem witness_OutcomeDependsOnLatchAlone :
    let s := busyWith .run .ean13 (asc [1,2,3,4,5])
    let s' := { s with pend := ⟨5, .ean13, 5, cells (asc [1,2,3,4,5,49,50])⟩, chars := cells [] }
    Instr.run ≠ .nop ∧ Pending .run s ∧ Pending .run s' ∧ s.pend.sym = s'.pend.sym ∧ s ≠ s' ∧
    latchedLen s = latchedLen s' ∧ (∀ k, k < latchedLen s → latchedChar s k = latchedChar s' k) := by
  unfold Pending
  decide +kernel

theorem witness_WaitPollsUntilIdle :
    let s := busyWith .run .ean13 [] 1 [.poll]
    (engineTurn s = false ∧ s.inputs = .poll :: [] ∧ s.busy = true) ∧
    (engineTurn (idleWith [.poll]) = false ∧ (idleWith [.poll]).inputs = .poll :: [] ∧
      (idleWith [.poll]).busy = false) := by decide +kernel

theorem witness_ResetClearsUnit :
    let s := busyWith .run .ean13 (asc [1]) 1 [.reset]
    (engineTurn s = false ∧ s.inputs = .reset :: [] ∧ s.busy = true) ∧
    (engineTurn (idleWith [.reset]) = false ∧ (idleWith [.reset]).inputs = .reset :: []) := by decide +kernel

theorem witness_ResultsChange :
    let s := busyWith .compute .upca (asc [0,3,6,0,0,0,2,9,1,4,5])
    ∃ t, step s = .next t ∧ decide (t.results ≠ s.results) = true :=
  nextHas_spec (by decide +kernel)

theorem witness_LatchChange_accepted :
    let s := idleWith [storeWord 0x00 5]
    ∃ t, step s = .next t ∧ decide (t.pend ≠ s.pend ∧ t.busy = true) = true :=
  nextHas_spec (by decide +kernel)

theorem witness_LatchChange_reset :
    let s := busyWith .run .ean13 (asc [1]) 1 [.reset]
    ∃ t, step s = .next t ∧ decide (t.pend ≠ s.pend ∧ s.inputs = .reset :: []) = true :=
  nextHas_spec (by decide +kernel)

theorem witness_ValidSetOnlyByValidateOrRun :
    let s := busyWith .validate .upca (asc [0,3,6,0,0,0,2,9,1,4,5,2])
    ∃ t, step s = .next t ∧ decide (s.results.valid = false ∧ t.results.valid = true) = true :=
  nextHas_spec (by decide +kernel)

theorem witness_BusyHoldsInputs_falls :
    let s := busyWith .run .ean13 [] 0
    ∃ t, step s = .next t ∧ decide (s.busy = true ∧ t.busy = false) = true :=
  nextHas_spec (by decide +kernel)

theorem witness_BusyHoldsInputs_stays :
    let s := busyWith .run .ean13 [] 1 [storeWord 0x04 0xFFFFFFFF]
    ∃ t, step s = .next t ∧ decide (s.busy = true ∧ t.busy = true) = true :=
  nextHas_spec (by decide +kernel)

/-- A legal state with a pending command and an outside world that polls. -/
theorem legal_pending : Legal (busyWith .run .ean13 (asc [1,2,3,4,5]) 2 [.poll, storeWord 0x00 1, .poll]) := by
  unfold Legal StatusLegal ResultsLegal ModulesLegal LatchLegal FailureLegal
  decide +kernel

/-- A legal idle state that reports a result. -/
theorem legal_reporting : Legal reporting := by
  unfold Legal StatusLegal ResultsLegal ModulesLegal LatchLegal FailureLegal
  decide +kernel

/-- An idle state whose report is the latched command's outcome. -/
theorem reporting_latched : ReportsLatched reporting :=
  fun _ => ⟨fun _ => ⟨{ check := some 2 }, by rfl, by decide +kernel⟩, fun h => absurd rfl h⟩

theorem witness_StepKeepsLegal :
    let s := busyWith .run .ean13 (asc [1,2,3,4,5]) 2 [.poll, storeWord 0x00 1, .poll]
    Legal s ∧ ∃ t, step s = .next t ∧ t.busy = true :=
  ⟨legal_pending, nextHas_spec (by decide +kernel)⟩

theorem witness_StepKeepsReportsLatched :
    ReportsLatched reporting ∧ ∃ t, step reporting = .next t ∧ t.rvalid = true :=
  ⟨reporting_latched, nextHas_spec (by decide +kernel)⟩

theorem witness_StepStopsOnlyThere_fault :
    let s := { busyWith .run .ean13 [] with pend := Latch.zero }
    engineTurn s = true ∧ s.pend.op = 0 := by decide +kernel

theorem witness_StepStopsOnlyThere_refusal :
    let s := idleWith [.read (.window 0x3E) .w16]
    engineTurn s = false ∧ s.inputs = .read (.window 0x3E) .w16 :: [] ∧
    inputAdmitted (.read (.window 0x3E) .w16) = false := by decide +kernel

theorem witness_StepStopsOnlyThere_legal : Legal reporting := legal_reporting

theorem witness_SafeRunNeverStops :
    Safe (busyWith .run .ean13 (asc [1,2,3,4,5]) 2 [.poll, storeWord 0x00 1, .poll]) :=
  ⟨legal_pending, by unfold InputsAdmitted; decide +kernel⟩

theorem witness_BusyStepCompletesOrCountsDown :
    let s := busyWith .run .ean13 (asc [1,2,3,4,5]) 2 [.poll, storeWord 0x00 1, .poll]
    Safe s ∧ s.busy = true :=
  ⟨witness_SafeRunNeverStops, by decide +kernel⟩

/-- A safe state whose host resets the unit right after the last step of the command's LATENCY. -/
theorem witness_AcceptedCommandCompletes_laterReset :
    let s := busyWith .run .ean13 (asc [1,2,3,4,5]) 1 [storeWord 0x00 1, .reset]
    Safe s ∧ s.busy = true ∧ .reset ∈ s.inputs ∧ .reset ∉ inputsBeforeCompletion s := by
  unfold Safe Legal StatusLegal ResultsLegal ModulesLegal LatchLegal FailureLegal InputsAdmitted
  decide +kernel

/-- A reset behind a WAIT: its turn comes only when the WAIT has seen BUSY = 0. -/
theorem witness_AcceptedCommandCompletes_resetBehindWait :
    let s := busyWith .run .ean13 (asc [1,2,3,4,5]) 2 [.poll, .reset]
    Safe s ∧ s.busy = true ∧ .reset ∈ s.inputs ∧ .reset ∉ inputsBeforeCompletion s := by
  unfold Safe Legal StatusLegal ResultsLegal ModulesLegal LatchLegal FailureLegal InputsAdmitted
  decide +kernel

theorem witness_LoadStringFillsCells_empty :
    let s := idleWith (expandStmt (.loadStr []) ++ [])
    s.busy = false ∧ ([] : List Byte).length ≤ 16 ∧ s.inputs = expandStmt (.loadStr []) ++ [] := by decide +kernel

theorem witness_LoadStringFillsCells_sixteen :
    let s := idleWith (expandStmt (.loadStr (List.replicate 16 0x39)) ++ [.poll])
    s.busy = false ∧ (List.replicate 16 (0x39 : Byte)).length ≤ 16 ∧
    s.inputs = expandStmt (.loadStr (List.replicate 16 0x39)) ++ [.poll] := by decide +kernel

theorem witness_ConfigStatementStores :
    let s := idleWith (expandStmt (.config .upca 255) ++ [])
    s.busy = false ∧ 255 ≤ 255 ∧ s.inputs = expandStmt (.config .upca 255) ++ [] := by decide +kernel

theorem witness_CommandStatementRuns :
    let s := idleWith (expandStmt (.cmd .encode) ++ [.poll])
    s.busy = false ∧ s.inputs = expandStmt (.cmd .encode) ++ [.poll] := by decide +kernel

end Sys2Proof.Tests
end

/-! The outside world's turn (R7, R58, R105, R213). -/

namespace Sys2Proof.Machine

/-- The engine waits while LATENCY has not passed and the host has a step to take (R105; log entry 2). -/
theorem engineTurn_waiting {s : State} {x : HostInput} {rest : List HostInput} (hc : s.countdown ≠ 0)
    (hi : s.inputs = x :: rest) : engineTurn s = false := by
  simp [engineTurn, hc, hi]

/-- With nothing to do outside and no turn of the engine, the state stays (R213). -/
theorem step_stays {s : State} (h : engineTurn s = false) (hi : s.inputs = []) : step s = .next s := by
  rw [step_outside h, hostStep, hi]

/-- Settles O26: in each case the engine has no turn, so the step is the outside world's. -/
theorem outsideTurn : Obligations.OutsideTurn := by
  unfold Obligations.OutsideTurn
  constructor
  · intro s x rest hturn hi
    obtain hb | hc := hturn
    · exact step_input (engineTurn_idle hb) hi
    · exact step_input (engineTurn_waiting hc hi) hi
  · intro s hb hi
    exact step_stays (engineTurn_idle hb) hi

end Sys2Proof.Machine

/-! What a completion can leave: the digits, the modules and the error kind of each command function (R109, R110). -/

namespace Sys2Proof.Machine

/-! ## The symbol's two ends (R150, R164) -/

theorem emitSymbol_getD_leading (e : List Digit) {i : Nat} (h : i < 7) :
    (emitSymbol e).getD i false = (quietZone ++ sideGuard).getD i false := by
  have hsplit : emitSymbol e = (quietZone ++ sideGuard) ++
      (leftGroup e ++ middleGuard ++ rightGroup e ++ sideGuard ++ quietZone) := by
    simp only [emitSymbol, List.append_assoc]
  rw [hsplit, List.getD_append _ _ _ _ h]

theorem emitSymbol_getD_trailing (e : List Digit) (i : Nat) :
    (emitSymbol e).getD (96 + i) false = (sideGuard ++ quietZone).getD i false := by
  have hsplit : emitSymbol e = (quietZone ++ sideGuard ++ leftGroup e ++ middleGuard ++ rightGroup e) ++
      (sideGuard ++ quietZone) := by
    simp only [emitSymbol, List.append_assoc]
  have hlen : (quietZone ++ sideGuard ++ leftGroup e ++ middleGuard ++ rightGroup e).length = 96 := by
    simp [quietZone, sideGuard, middleGuard]
  rw [hsplit, List.getD_append_right _ _ _ _ (by omega), hlen, Nat.add_sub_cancel_left]

theorem packModules_encodeSymbol_leading (d : List Digit) (sym : Symbology) :
    (packModules (encodeSymbol d sym)).extractLsb' 0 7 = 0b1010000 := by
  have hbits : ∀ i < 7, (quietZone ++ sideGuard).getD i false = (0b1010000 : BitVec 7).getLsbD i := by decide
  apply BitVec.eq_of_getLsbD_eq
  intro i hi
  rw [BitVec.getLsbD_extractLsb', getLsbD_packModules, Nat.zero_add, encodeSymbol,
    emitSymbol_getD_leading _ hi, hbits i hi]
  simp [hi, show i < 103 by omega]

theorem packModules_encodeSymbol_trailing (d : List Digit) (sym : Symbology) :
    (packModules (encodeSymbol d sym)).extractLsb' 96 7 = 0b0000101 := by
  have hbits : ∀ i < 7, (sideGuard ++ quietZone).getD i false = (0b0000101 : BitVec 7).getLsbD i := by decide
  apply BitVec.eq_of_getLsbD_eq
  intro i hi
  rw [BitVec.getLsbD_extractLsb', getLsbD_packModules, encodeSymbol, emitSymbol_getD_trailing, hbits i hi]
  simp [hi, show 96 + i < 103 by omega]

/-! ## The stages of the command functions -/

/-- The input check has two errors (R107, R108). -/
theorem checkInput_error {ok : Bool} {o : Operands} {e : ErrorKind} (h : checkInput ok o = .error e) :
    e = .invalidLength ∨ e = .invalidDigit := by
  obtain ⟨-, hc⟩ | ⟨-, hc⟩ := checkInput_cases ok o
  · rw [hc] at h
    cases h
    exact .inl rfl
  · rw [hc] at h
    exact .inr (readDigits_eq_error.mp h).1

theorem normalizeDigits_error {r : List Digit} {sym : Symbology} {e : ErrorKind}
    (h : normalizeDigits r sym = .error e) : e = .invalidLength := by
  unfold normalizeDigits at h
  split at h <;> cases h
  rfl

/-- A normalized string has at most TOTAL(s) digits (R142). -/
theorem normalizeDigits_length_le {r n : List Digit} {sym : Symbology} (h : normalizeDigits r sym = .ok n) :
    n.length ≤ total sym := by
  have := payload_add_one sym
  unfold normalizeDigits padToPayload at h
  split at h
  · cases h
  · split at h <;> cases h
    · omega
    · simp only [List.length_append, List.length_replicate]
      omega

/-- A string completed with its check digit validates (R125). -/
theorem validDigits_append_checkDigit (p : List Digit) : validDigits (p ++ [checkDigit p]) = true := by
  rw [validDigits_iff, fullSum_concat, checkDigit_val]
  omega

/-- The checksum stage with its self-check resolved: it never fails (R182). -/
theorem checksumStage_eq (n : List Digit) (sym : Symbology) :
    checksumStage n sym =
      if n.length = total sym then if validDigits n then .ok n else .error .checksumMismatch
      else .ok (n ++ [checkDigit n]) := by
  rw [checksumStage, if_pos (validDigits_append_checkDigit n)]

theorem checksumStage_error {n : List Digit} {sym : Symbology} {e : ErrorKind}
    (h : checksumStage n sym = .error e) : e = .checksumMismatch := by
  rw [checksumStage_eq] at h
  split at h
  · split at h <;> cases h
    rfl
  · cases h

theorem checksumStage_length_le {n f : List Digit} {sym : Symbology} (hn : n.length ≤ total sym)
    (h : checksumStage n sym = .ok f) : f.length ≤ total sym := by
  rw [checksumStage_eq] at h
  split at h
  · split at h <;> cases h
    exact hn
  · cases h
    rw [List.length_append, List.length_singleton]
    omega

/-! ## Well-formed outcomes -/

/-- What every command function's outcome has in common: at most 13 digits, the modules of a symbol or none, and
never the failure of RUN's self-check. -/
def OutcomeLegal : CmdOutcome → Prop
  | .ok res => (res.digits.getD []).length ≤ 13 ∧
      (res.modules = none ∨ ∃ d sym, res.modules = some (encodeSymbol d sym))
  | .error kind => kind ≠ .checksumComputation

theorem outcomeLegal_of_checkInput_error {ok : Bool} {o : Operands} {e : ErrorKind}
    (h : checkInput ok o = .error e) : OutcomeLegal (.error e) := by
  obtain rfl | rfl := checkInput_error h <;> exact ErrorKind.noConfusion

theorem evalCompute_legal (o : Operands) : OutcomeLegal (evalCompute o) := by
  unfold evalCompute
  split
  · exact outcomeLegal_of_checkInput_error ‹_›
  · exact ⟨Nat.zero_le _, .inl rfl⟩

theorem evalValidate_legal (o : Operands) : OutcomeLegal (evalValidate o) := by
  unfold evalValidate
  split
  · exact outcomeLegal_of_checkInput_error ‹_›
  · exact ⟨Nat.zero_le _, .inl rfl⟩

theorem evalEncode_legal (o : Operands) : OutcomeLegal (evalEncode o) := by
  unfold evalEncode
  split
  · exact outcomeLegal_of_checkInput_error ‹_›
  · exact ⟨Nat.zero_le _, .inr ⟨_, _, rfl⟩⟩

theorem evalNormalize_legal (o : Operands) : OutcomeLegal (evalNormalize o) := by
  unfold evalNormalize
  split
  · exact outcomeLegal_of_checkInput_error ‹_›
  · split
    next hn => exact normalizeDigits_error hn ▸ ErrorKind.noConfusion
    next hn => exact ⟨(normalizeDigits_length_le hn).trans (total_le o.sym), .inl rfl⟩

theorem evalRun_legal (o : Operands) : OutcomeLegal (evalRun o) := by
  unfold evalRun
  split
  · exact outcomeLegal_of_checkInput_error ‹_›
  · split
    next hn => exact normalizeDigits_error hn ▸ ErrorKind.noConfusion
    next hn =>
      split
      next hf => exact checksumStage_error hf ▸ ErrorKind.noConfusion
      next hf =>
        have hlen := checksumStage_length_le (normalizeDigits_length_le hn) hf
        exact ⟨hlen.trans (total_le o.sym), .inr ⟨_, _, rfl⟩⟩

theorem evalReserved_legal (o : Operands) : OutcomeLegal (evalReserved o) :=
  ErrorKind.noConfusion

theorem commandFunction_legal {i : Instr} {eval : Operands → CmdOutcome} (h : commandFunction i = some eval)
    (o : Operands) : OutcomeLegal (eval o) := by
  cases i <;> cases h
  case compute => exact evalCompute_legal o
  case validate => exact evalValidate_legal o
  case normalize => exact evalNormalize_legal o
  case encode => exact evalEncode_legal o
  case run => exact evalRun_legal o
  case reserved6 => exact evalReserved_legal o
  case reserved7 => exact evalReserved_legal o

end Sys2Proof.Machine

/-! The invariant `Legal`: it holds at reset, and each effect of `step_effect` keeps it. -/

namespace Sys2Proof.Machine

/-! ## The result registers a completion writes -/

theorem resultsLegal_zero : ResultsLegal Results.zero := by
  refine ⟨Nat.zero_le _, Nat.zero_le _, fun k => ?_⟩
  have hcell : Results.zero.odig[k] = 0 := Vector.getElem_replicate _
  rw [hcell]
  exact ⟨Nat.zero_le _, fun _ => rfl⟩

theorem modulesLegal_zero : ModulesLegal Results.zero := .inl rfl

/-- CHECK is a digit or 0 (R25). -/
theorem resultsOf_check_le (res : CmdResult) : (resultsOf res).check.toNat ≤ 9 := by
  cases hc : res.check with
  | none => simp [resultsOf, hc]
  | some d =>
    have := d.isLt
    simp only [resultsOf, hc, digitCell_toNat]
    omega

theorem resultsOf_outLen_toNat {res : CmdResult} (h : (res.digits.getD []).length ≤ 13) :
    (resultsOf res).outLen.toNat = (res.digits.getD []).length := by
  simp only [resultsOf, BitVec.toNat_ofNat]
  omega

theorem packDigits_eq_zero {ds : List Digit} {k : Fin 13} (h : ds.length ≤ k.val) : (packDigits ds)[k] = 0 := by
  apply BitVec.eq_of_toNat_eq
  rw [packDigits_toNat, List.getD_eq_default _ _ h]
  rfl

theorem resultsOf_legal {res : CmdResult} (h : (res.digits.getD []).length ≤ 13) :
    ResultsLegal (resultsOf res) := by
  have hlen := resultsOf_outLen_toNat h
  refine ⟨resultsOf_check_le res, hlen ▸ h, fun k => ⟨?_, fun hk => packDigits_eq_zero (hlen ▸ hk)⟩⟩
  have := ((res.digits.getD []).getD k.val 0).isLt
  show (packDigits (res.digits.getD []))[k].toNat ≤ 9
  rw [packDigits_toNat]
  omega

theorem resultsOf_modulesLegal {res : CmdResult}
    (h : res.modules = none ∨ ∃ d sym, res.modules = some (encodeSymbol d sym)) :
    ModulesLegal (resultsOf res) := by
  obtain hm | ⟨d, sym, hm⟩ := h
  · exact .inl (by rw [resultsOf, hm]; rfl)
  · have hmod : (resultsOf res).modules = packModules (encodeSymbol d sym) := by
      rw [resultsOf, hm]
      rfl
    rw [ModulesLegal, hmod]
    exact .inr ⟨packModules_encodeSymbol_leading d sym, packModules_encodeSymbol_trailing d sym⟩

/-! ## Each effect of a step -/

/-- Without an error STATUS is legal as long as BUSY and RVALID are not both 1 (R24). -/
theorem statusLegal_of_noError {s : State} (herr : s.err = 0) (h : s.busy = true → s.rvalid = false) :
    StatusLegal s := by
  refine ⟨fun hb => ⟨h hb, herr⟩, fun _ => herr, ?_⟩
  rw [herr]
  decide

theorem legal_reset (inputs : List HostInput) (rdata : Word) (issued : Nat) :
    Legal { State.reset with inputs := inputs, rdata := rdata, issued := issued } :=
  ⟨statusLegal_of_noError rfl fun _ => rfl, resultsLegal_zero, modulesLegal_zero, Bool.noConfusion,
    fun _ _ => rfl⟩

/-- A successful completion leaves a legal state, whatever the state it starts in (R109). -/
theorem legal_completed_ok (s : State) {res : CmdResult} (h : OutcomeLegal (.ok res)) :
    Legal (completed s true 0 (resultsOf res)) := by
  obtain ⟨hdigits, hmodules⟩ := h
  exact ⟨statusLegal_of_noError rfl Bool.noConfusion, resultsOf_legal hdigits,
    resultsOf_modulesLegal hmodules, Bool.noConfusion, fun _ => Bool.noConfusion⟩

/-- A failed completion leaves a legal state, whatever the state it starts in (R110). -/
theorem legal_completed_error (s : State) {kind : ErrorKind} (h : OutcomeLegal (.error kind)) :
    Legal (completed s false (errorCode kind) Results.zero) := by
  have hcode : (errorCode kind).toNat ≤ 5 := by cases kind <;> decide
  have hne : errorCode kind ≠ 4 := by
    cases kind
    case checksumComputation => exact absurd rfl h
    all_goals decide
  exact ⟨⟨Bool.noConfusion, Bool.noConfusion, hcode, hne⟩, resultsLegal_zero, modulesLegal_zero,
    Bool.noConfusion, fun _ _ => rfl⟩

/-- Acceptance keeps the results and latches the inputs (R101). -/
theorem legal_issue {s : State} {op : BitVec 3} (h : Legal s) (hop : op ≠ 0) : Legal (issue op s) := by
  obtain ⟨-, hresults, hmodules, -, -⟩ := h
  exact ⟨statusLegal_of_noError rfl fun _ => rfl, hresults, hmodules, fun _ => ⟨rfl, hop⟩, Bool.noConfusion⟩

theorem legal_hostPassed {s : State} (h : Legal s) (rest : List HostInput) : Legal (hostPassed s rest) := h

/-- `Legal` reads only STATUS, the results, the latch and, while busy, the visible inputs. -/
theorem legal_of_unchanged {s t : State} (h : Legal s) (hbusy : t.busy = s.busy) (hrvalid : t.rvalid = s.rvalid)
    (herr : t.err = s.err) (hresults : t.results = s.results) (hpend : t.pend = s.pend)
    (hinputs : s.busy = true → t.op = s.op ∧ t.sym = s.sym ∧ t.inLen = s.inLen ∧ t.chars = s.chars) :
    Legal t := by
  obtain ⟨hstatus, hres, hmod, hlatch, hfail⟩ := h
  refine ⟨?_, hresults ▸ hres, hresults ▸ hmod, fun hb => ?_, ?_⟩
  · rw [StatusLegal, hbusy, hrvalid, herr]
    exact hstatus
  · rw [hbusy] at hb
    obtain ⟨hop, hsym, hlen, hchars⟩ := hinputs hb
    rw [hpend, latchInputs, hop, hsym, hlen, hchars]
    exact hlatch hb
  · rw [FailureLegal, hbusy, hrvalid, hresults]
    exact hfail

/-- Settles O52: of the four effects a step can have, a completion and a reset leave a legal state whatever was
before, acceptance copies the inputs it latches, and any other step leaves what `Legal` reads. -/
theorem stepKeepsLegal : Obligations.StepKeepsLegal := by
  unfold Obligations.StepKeepsLegal
  intro s t hs hstep
  obtain ⟨-, eval, -, hf, hcompletion⟩ | ⟨-, rest, -, rfl⟩ | ⟨-, -, a, w, rest, -, -, hop, rfl⟩ |
    ⟨-, hbusy, hrvalid, herr, hresults, hpend, hinputs⟩ := step_effect hstep
  · have hlegal := commandFunction_legal hf (operandsOf s.pend)
    obtain ⟨res, hr, rfl⟩ | ⟨kind, hr, rfl⟩ := hcompletion
    · exact legal_completed_ok s (hr ▸ hlegal)
    · exact legal_completed_error s (hr ▸ hlegal)
  · exact legal_reset rest s.rdata s.issued
  · exact legal_issue (legal_hostPassed hs rest) hop
  · exact legal_of_unchanged hs hbusy hrvalid herr hresults hpend hinputs

/-- Settles O51: the reset state is the one a reset leaves of an empty host, and it reports neither a result nor an
error. -/
theorem resetIsLegal : Obligations.ResetIsLegal := by
  unfold Obligations.ResetIsLegal
  exact ⟨legal_reset [] 0 0, fun _ => ⟨Bool.noConfusion, fun herr => absurd rfl herr⟩⟩

end Sys2Proof.Machine

/-! Who writes what: results and BUSY at a completion or a reset, the latch at acceptance or a reset, VALID by VALIDATE
and RUN (R30 to R32). -/

namespace Sys2Proof.Machine

/-- Settles O48: of the four effects of a step only a completion and a reset write the results, and only an acceptance
and a reset the latch. -/
theorem resultsAndLatchChangeOnlyThere : Obligations.ResultsAndLatchChangeOnlyThere := by
  unfold Obligations.ResultsAndLatchChangeOnlyThere
  intro s t hstep
  obtain ⟨hturn, eval, -, -, hcompletion⟩ | ⟨hturn, rest, hi, rfl⟩ |
    ⟨hturn, hidle, a, w, rest, hi, ha, hop, rfl⟩ | ⟨-, -, -, -, hresults, hpend, -⟩ := step_effect hstep
  · have hkept : t.pend = s.pend := by
      obtain ⟨_, _, rfl⟩ | ⟨_, _, rfl⟩ := hcompletion <;> rfl
    exact ⟨fun _ => .inl hturn, fun hp => absurd hkept hp⟩
  · exact ⟨fun _ => .inr ⟨rest, hi⟩, fun _ => ⟨hturn, .inl ⟨rest, hi⟩⟩⟩
  · exact ⟨fun hr => absurd rfl hr, fun _ => ⟨hturn, .inr ⟨rfl, hidle, rfl, a, w, rest, hi, ha, hop⟩⟩⟩
  · exact ⟨fun hr => absurd hresults hr, fun hp => absurd hpend hp⟩

theorem evalCompute_valid {o : Operands} {res : CmdResult} (h : evalCompute o = .ok res) : res.valid = none := by
  unfold evalCompute at h
  split at h <;> cases h
  rfl

theorem evalNormalize_valid {o : Operands} {res : CmdResult} (h : evalNormalize o = .ok res) :
    res.valid = none := by
  unfold evalNormalize at h
  split at h
  · cases h
  · split at h <;> cases h
    rfl

theorem evalEncode_valid {o : Operands} {res : CmdResult} (h : evalEncode o = .ok res) : res.valid = none := by
  unfold evalEncode at h
  split at h <;> cases h
  rfl

/-- Of the command functions only those of VALIDATE and RUN produce VALID (R31). -/
theorem commandFunction_valid {i : Instr} {eval : Operands → CmdOutcome} {o : Operands} {res : CmdResult}
    (hf : commandFunction i = some eval) (hr : eval o = .ok res) (hv : (resultsOf res).valid = true) :
    i = .validate ∨ i = .run := by
  have hproduced : res.valid ≠ none := fun hn => by simp [resultsOf, hn] at hv
  cases i <;> cases hf
  case compute => exact absurd (evalCompute_valid hr) hproduced
  case validate => exact .inl rfl
  case normalize => exact absurd (evalNormalize_valid hr) hproduced
  case encode => exact absurd (evalEncode_valid hr) hproduced
  case run => exact .inr rfl
  case reserved6 => cases hr
  case reserved7 => cases hr

/-- Settles O49: only a successful completion can leave VALID 1 where it was 0, and of the command functions only two
produce VALID. -/
theorem validSetOnlyByValidateOrRun : Obligations.ValidSetOnlyByValidateOrRun := by
  unfold Obligations.ValidSetOnlyByValidateOrRun
  intro s t hstep hs ht
  obtain ⟨hturn, eval, -, hf, ⟨res, hr, rfl⟩ | ⟨_, _, rfl⟩⟩ | ⟨-, _, -, rfl⟩ |
    ⟨-, -, _, _, _, -, -, -, rfl⟩ | ⟨-, -, -, -, hresults, -, -⟩ := step_effect hstep
  · have hop := opcode_ofOpcode s.pend.op
    obtain hi | hi := commandFunction_valid hf hr ht
    · exact ⟨hturn, .inl (hop ▸ hi ▸ rfl), rfl, rfl⟩
    · exact ⟨hturn, .inr (hop ▸ hi ▸ rfl), rfl, rfl⟩
  · exact Bool.noConfusion ht
  · exact Bool.noConfusion ht
  · exact Bool.noConfusion (hs.symm.trans ht)
  · rw [hresults, hs] at ht
    exact Bool.noConfusion ht

/-- Settles O50: a completion and a reset leave BUSY 0, an acceptance needs an idle unit, and every other step of a
busy unit leaves it as it was. -/
theorem busyHoldsInputs : Obligations.BusyHoldsInputs := by
  unfold Obligations.BusyHoldsInputs
  intro s t hstep hbusy
  obtain ⟨hturn, eval, -, -, hcompletion⟩ | ⟨-, rest, hi, rfl⟩ | ⟨-, hidle, -⟩ |
    ⟨-, hkept, hrvalid, herr, hresults, hpend, hinputs⟩ := step_effect hstep
  · have hdone : t.busy = false := by
      obtain ⟨_, _, rfl⟩ | ⟨_, _, rfl⟩ := hcompletion <;> rfl
    exact ⟨fun _ => .inl hturn, fun hb => Bool.noConfusion (hdone.symm.trans hb)⟩
  · exact ⟨fun _ => .inr ⟨rest, hi⟩, Bool.noConfusion⟩
  · exact Bool.noConfusion (hidle.symm.trans hbusy)
  · obtain ⟨hop, hsym, hlen, hchars⟩ := hinputs hbusy
    exact ⟨fun hb => Bool.noConfusion (hb.symm.trans (hkept.trans hbusy)),
      fun _ => ⟨hop, hsym, hlen, hchars, hpend, hresults, hrvalid, herr⟩⟩

end Sys2Proof.Machine

/-! The registers as the host reads them, bit by bit and cell by cell (R22 to R29). -/

namespace Sys2Proof.Machine

/-! ## Words of fields and cells -/

theorem symBit_eq (sym : Symbology) : symBit sym = decide (sym = .upca) := by
  cases sym <;> rfl

/-- Bit `b` of a word that holds the field `x` at bit `k`. -/
theorem getLsbD_fieldAt {n : Nat} (x : BitVec n) (k : Nat) {b : Nat} (hb : b < 32) :
    (x.setWidth 32 <<< k).getLsbD b = if k ≤ b ∧ b < k + n then x.getLsbD (b - k) else false := by
  rw [BitVec.getLsbD_shiftLeft, BitVec.getLsbD_setWidth]
  by_cases hk : k ≤ b
  · by_cases hn : b < k + n
    · simp [hb, hk, hn, show b - k < 32 by omega]
    · simp [hn, BitVec.getLsbD_of_ge x (b - k) (by omega)]
  · simp [hk, show b < k by omega]

theorem getLsbD_bitAt (x : Bool) (k : Nat) {b : Nat} (hb : b < 32) :
    (bitWord x <<< k).getLsbD b = (decide (b = k) && x) := by
  rw [BitVec.getLsbD_shiftLeft, getLsbD_bitWord]
  by_cases hk : b = k
  · simp [hk, hk ▸ hb]
  · by_cases hlt : b < k
    · simp [hk, hlt]
    · simp [hk, show b - k ≠ 0 by omega]

theorem getLsbD_configWord (s : State) {b : Nat} (hb : b < 32) :
    (configWord s).getLsbD b =
      if b = 0 then decide (s.sym = .upca) else if 8 ≤ b ∧ b < 16 then s.inLen.getLsbD (b - 8) else false := by
  rw [configWord, BitVec.getLsbD_or, getLsbD_bitWord, getLsbD_fieldAt _ _ hb, symBit_eq]
  by_cases h0 : b = 0
  · simp [h0]
  · simp [h0]

theorem getLsbD_statusWord (s : State) {b : Nat} (hb : b < 32) :
    (statusWord s).getLsbD b =
      if b = 0 then s.busy else if b = 1 then s.rvalid
      else if 4 ≤ b ∧ b < 8 then s.err.getLsbD (b - 4) else false := by
  rw [statusWord, BitVec.getLsbD_or, BitVec.getLsbD_or, getLsbD_bitWord, getLsbD_bitAt _ _ hb,
    getLsbD_fieldAt _ _ hb]
  by_cases h0 : b = 0
  · simp [h0]
  · by_cases h1 : b = 1
    · simp [h1]
    · simp [h0, h1]

theorem getLsbD_resultWord (r : Results) {b : Nat} (hb : b < 32) :
    (resultWord r).getLsbD b =
      if b < 4 then r.check.getLsbD b else if b = 4 then r.valid
      else if 8 ≤ b ∧ b < 12 then r.outLen.getLsbD (b - 8) else false := by
  rw [resultWord, BitVec.getLsbD_or, BitVec.getLsbD_or, BitVec.getLsbD_setWidth, getLsbD_bitAt _ _ hb,
    getLsbD_fieldAt _ _ hb]
  by_cases hcheck : b < 4
  · simp [hcheck, hb, show b ≠ 4 by omega, show ¬ 8 ≤ b by omega]
  · by_cases hvalid : b = 4
    · simp [hvalid]
    · simp [hcheck, hvalid, BitVec.getLsbD_of_ge r.check b (by omega)]

/-- Settles O15: CMD is its field, and the other three words are read bit by bit. -/
theorem controlRegisterBits : Obligations.ControlRegisterBits := by
  unfold Obligations.ControlRegisterBits
  intro s b hb
  refine ⟨?_, getLsbD_configWord s hb, getLsbD_statusWord s hb, getLsbD_resultWord s.results hb⟩
  show (s.op.setWidth 32).getLsbD b = _
  rw [BitVec.getLsbD_setWidth]
  by_cases hop : b < 3
  · simp [hop, hb]
  · simp [hop, BitVec.getLsbD_of_ge s.op b (by omega)]

/-- Cell `k` of `n` packed cells. -/
theorem packCells_extract {w n k : Nat} (cell : Nat → BitVec w) (hk : k < n) (hn : w * n ≤ 32) :
    (packCells cell n).extractLsb' (w * k) w = cell k := by
  apply BitVec.eq_of_getLsbD_eq
  intro i hi
  have hw : 0 < w := by omega
  have hlt : w * k + i < w * n := by
    have := Nat.mul_le_mul_left w (Nat.succ_le_of_lt hk)
    rw [Nat.mul_succ] at this
    omega
  rw [BitVec.getLsbD_extractLsb', getLsbD_packCells hw _ _ _ (by omega), Nat.mul_add_div hw,
    Nat.div_eq_of_lt hi, Nat.mul_add_mod, Nat.mod_eq_of_lt hi]
  simp [hi, hlt]

theorem charCell_fin (s : State) (k : Fin 16) : charCell s k = s.chars[k] := by
  simp [charCell]

theorem odigCell_fin (s : State) (k : Fin 13) : odigCell s k = s.results.odig[k] := by
  simp [odigCell]

theorem odigCell_of_ge (s : State) {k : Nat} (h : 13 ≤ k) : odigCell s k = 0 := by
  simp [odigCell, show ¬ k < 13 by omega]

/-! ## The data registers by their offsets (R21) -/

theorem regAt_inChar {j : Nat} (h : j < 4) : regAt (0x10 + 4 * j) = some (.inChar j) := by
  interval_cases j <;> rfl

theorem regAt_outDig {j : Nat} (h : j < 2) : regAt (0x20 + 4 * j) = some (.outDig j) := by
  interval_cases j <;> rfl

theorem regAt_mod {j : Nat} (h : j < 4) : regAt (0x30 + 4 * j) = some (.mod j) := by
  interval_cases j <;> rfl

theorem readOffset_of_regAt {s : State} {off : Nat} {r : Reg} (h : regAt off = some r) :
    readOffset s off = readReg s r := by
  rw [readOffset, h]

theorem readOffset_inChar (s : State) {j : Nat} (h : j < 4) : readOffset s (0x10 + 4 * j) = inCharWord s j :=
  readOffset_of_regAt (regAt_inChar h)

theorem readOffset_outDig (s : State) {j : Nat} (h : j < 2) : readOffset s (0x20 + 4 * j) = outDigWord s j :=
  readOffset_of_regAt (regAt_outDig h)

theorem readOffset_mod (s : State) {j : Nat} (h : j < 4) : readOffset s (0x30 + 4 * j) = modWord s j :=
  readOffset_of_regAt (regAt_mod h)

theorem inCharWord_extract (s : State) (k : Fin 16) :
    (inCharWord s (k.val / 4)).extractLsb' (8 * (k.val % 4)) 8 = s.chars[k] := by
  rw [inCharWord, packCells_extract _ (by omega) (by omega), Nat.div_add_mod, charCell_fin]

theorem outDigWord_extract (s : State) (k : Fin 13) :
    (outDigWord s (k.val / 8)).extractLsb' (4 * (k.val % 8)) 4 = s.results.odig[k] := by
  rw [outDigWord, packCells_extract _ (by omega) (by omega), Nat.div_add_mod, odigCell_fin]

/-- OUT_DIG1 has five cells, so its bits from 20 on are reserved (R27). -/
theorem outDigWord_one_reserved (s : State) {b : Nat} (h : 20 ≤ b) : (outDigWord s 1).getLsbD b = false := by
  by_cases hb : b < 32
  · rw [outDigWord, getLsbD_packCells (by decide) _ _ _ hb, odigCell_of_ge s (by omega)]
    simp
  · exact BitVec.getLsbD_of_ge _ _ (by omega)

theorem getLsbD_modWord (s : State) (j : Nat) {b : Nat} (hb : b < 32) :
    (modWord s j).getLsbD b = s.results.modules.getLsbD (32 * j + b) := by
  simp [modWord, hb]

/-- MOD3 has seven modules, so its bits from 7 on are reserved (R28). -/
theorem modWord_three_reserved (s : State) {b : Nat} (h : 7 ≤ b) : (modWord s 3).getLsbD b = false := by
  by_cases hb : b < 32
  · rw [getLsbD_modWord s 3 hb]
    exact BitVec.getLsbD_of_ge _ _ (by omega)
  · exact BitVec.getLsbD_of_ge _ _ (by omega)

/-- Settles O16: each offset names its register, whose word packs the cells. -/
theorem dataRegisterBits : Obligations.DataRegisterBits := by
  unfold Obligations.DataRegisterBits
  intro s
  refine ⟨fun k => ?_, fun k => ?_, fun b hb => outDigWord_one_reserved s hb, fun i hi => ?_,
    fun b hb => modWord_three_reserved s hb, rfl, rfl⟩
  · rw [readOffset_inChar s (by omega), inCharWord_extract]
  · rw [readOffset_outDig s (by omega), outDigWord_extract]
  · rw [readOffset_mod s (by omega), getLsbD_modWord s _ (Nat.mod_lt i (by decide)), Nat.div_add_mod]

/-! ## The registers after reset (R231) -/

theorem packCells_zero {w : Nat} (n : Nat) : packCells (fun _ => (0 : BitVec w)) n = 0 := by
  induction n with
  | zero => rfl
  | succ n ih =>
    rw [packCells, ih]
    simp

theorem charCell_reset (k : Nat) : charCell State.reset k = 0 := by
  simp [charCell, State.reset]

theorem odigCell_reset (k : Nat) : odigCell State.reset k = 0 := by
  simp [odigCell, State.reset, Results.zero]

theorem readReg_reset (r : Reg) : readReg State.reset r = 0 := by
  cases r with
  | cmd => rfl
  | config => rfl
  | status => rfl
  | result => rfl
  | inChar j => simp only [readReg, inCharWord, charCell_reset, packCells_zero]
  | outDig j => simp only [readReg, outDigWord, odigCell_reset, packCells_zero]
  | mod j => simp [readReg, modWord, State.reset, Results.zero]

/-- Settles O47: every register reads 0, and a reserved offset reads 0 in any state. -/
theorem resetReadsZero : Obligations.ResetReadsZero := by
  unfold Obligations.ResetReadsZero
  refine ⟨fun off => ?_, rfl, rfl, rfl, fun k => Vector.getElem_replicate _⟩
  cases hreg : regAt off with
  | none => rw [readOffset, hreg]
  | some r => rw [readOffset_of_regAt hreg, readReg_reset]

end Sys2Proof.Machine

/-! What a host write to a register other than CMD does (R29, R30, R56, R102). -/

namespace Sys2Proof.Machine

section
variable {s : State} {a : BusAddr} {w : Word} {off : Nat}

/-- A write to an idle unit stores in the register at its offset. -/
theorem hostWrite_store {r : Reg} (hidle : s.busy = false) (ha : windowOffset a = some off) (halign : off % 4 = 0)
    (hreg : regAt off = some r) (hcmd : r ≠ .cmd) : hostWrite a .w32 w s = .next (storeReg r w s) := by
  have hwf := (accessWf_iff .w32 off).mpr ⟨rfl, halign⟩
  cases r with
  | cmd => exact absurd rfl hcmd
  | _ => simp [hostWrite, ha, hwf, hidle, hreg]

/-- A write to a reserved offset of an idle unit has no effect. -/
theorem hostWrite_reserved (hidle : s.busy = false) (ha : windowOffset a = some off) (halign : off % 4 = 0)
    (hreg : regAt off = none) : hostWrite a .w32 w s = .next s := by
  have hwf := (accessWf_iff .w32 off).mpr ⟨rfl, halign⟩
  simp [hostWrite, ha, hwf, hidle, hreg]

/-- A write to a busy unit is dropped. -/
theorem hostWrite_busy (hbusy : s.busy = true) (ha : windowOffset a = some off) (halign : off % 4 = 0) :
    hostWrite a .w32 w s = .next s := by
  have hwf := (accessWf_iff .w32 off).mpr ⟨rfl, halign⟩
  simp [hostWrite, ha, hwf, hbusy]

/-- A step at an idle unit's host write to a register other than CMD. -/
theorem step_store {rest : List HostInput} {r : Reg} (hidle : s.busy = false)
    (hi : s.inputs = .write a .w32 w :: rest) (ha : windowOffset a = some off) (halign : off % 4 = 0)
    (hreg : regAt off = some r) (hcmd : r ≠ .cmd) : step s = .next (storeReg r w (hostPassed s rest)) :=
  (step_input (engineTurn_idle hidle) hi).trans (hostWrite_store (s := hostPassed s rest) hidle ha halign hreg hcmd)

end

/-- The bits CONFIG stores (R23). -/
theorem getLsbD_configMask {b : Nat} (hb : b < 32) :
    (0x0000FF01 : Word).getLsbD b = decide (b = 0 ∨ 8 ≤ b ∧ b < 16) := by
  revert b
  decide

/-- CONFIG holds the written word without its reserved bits (R29). -/
theorem configWord_setConfig (w : Word) (s : State) :
    configWord (setConfig (symOfBit (w.getLsbD 0)) (w.extractLsb' 8 8) s) = w &&& 0x0000FF01 := by
  have hsym : ∀ b : Bool, decide (symOfBit b = .upca) = b := by decide
  apply BitVec.eq_of_getLsbD_eq
  intro b hb
  rw [getLsbD_configWord _ hb, BitVec.getLsbD_and, getLsbD_configMask hb, setConfig_sym, setConfig_inLen, hsym]
  by_cases h0 : b = 0
  · simp [h0]
  · by_cases hlen : 8 ≤ b ∧ b < 16
    · simp [hlen, h0, show b - 8 < 8 by omega, show 8 + (b - 8) = b by omega]
    · simp [hlen, h0]

/-- Settles O18: the write stores the two fields, and CONFIG is read back from them. -/
theorem configWriteStores : Obligations.ConfigWriteStores := by
  unfold Obligations.ConfigWriteStores
  intro s a w rest hidle hi ha
  have hstep := step_store (r := .config) hidle hi ha rfl rfl (by decide)
  exact ⟨_, hstep, rfl, configWord_setConfig w (hostPassed s rest)⟩

/-- IN_CHARj holds the written word (R26). -/
theorem inCharWord_storeInChar {j : Nat} (hj : j < 4) (w : Word) (s : State) :
    inCharWord (setChars (storeInChar j w s.chars) s) j = w := by
  apply BitVec.eq_of_getLsbD_eq
  intro b hb
  have hk : 4 * j + b / 8 < 16 := by omega
  rw [inCharWord, getLsbD_packCells (by decide) _ _ _ hb,
    charCell_fin (setChars (storeInChar j w s.chars) s) ⟨4 * j + b / 8, hk⟩, setChars_chars, storeInChar_getElem,
    if_pos (show (4 * j + b / 8) / 4 = j by omega), BitVec.getLsbD_extractLsb',
    show 8 * ((4 * j + b / 8) % 4) + b % 8 = b by omega]
  simp [hb, Nat.mod_lt b (show 0 < 8 by decide)]

/-- Settles O19: the write stores the four cells of its word, and IN_CHARj is read back from them. -/
theorem inCharWriteStores : Obligations.InCharWriteStores := by
  unfold Obligations.InCharWriteStores
  intro s a w rest j hidle hj hi ha
  have hstep := step_store (r := .inChar j) hidle hi ha (by omega) (regAt_inChar hj) (by simp)
  refine ⟨_, hstep, rfl, fun k hk => ?_, fun k hk => ?_, ?_⟩
  · exact (storeInChar_getElem j w s.chars k).trans (if_pos hk)
  · exact (storeInChar_getElem j w s.chars k).trans (if_neg hk)
  · rw [readOffset_inChar _ hj]
    exact inCharWord_storeInChar hj w (hostPassed s rest)

/-- The registers a host write does not store to (R30). -/
def Reg.isReadOnly : Reg → Bool
  | .cmd => false
  | .config => false
  | .status => true
  | .result => true
  | .inChar _ => false
  | .outDig _ => true
  | .mod _ => true

theorem storeReg_readOnly {r : Reg} (h : r.isReadOnly = true) (w : Word) (s : State) : storeReg r w s = s := by
  cases r with
  | cmd | config | inChar => cases h
  | status | result | outDig | mod => rfl

/-- The register table (R21) has a read-only register or none at these offsets. -/
theorem regAt_readOnly {off : Nat} (h : off ∈ [0x08, 0x0C, 0x20, 0x24, 0x28, 0x2C, 0x30, 0x34, 0x38, 0x3C]) :
    off % 4 = 0 ∧ (regAt off).all Reg.isReadOnly = true := by
  revert off
  decide

/-- A write to a read-only register or a reserved offset has no effect, whether the unit is busy or idle. -/
theorem hostWrite_readOnly {s : State} {a : BusAddr} {w : Word} {off : Nat} (ha : windowOffset a = some off)
    (halign : off % 4 = 0) (hreadOnly : (regAt off).all Reg.isReadOnly = true) :
    hostWrite a .w32 w s = .next s := by
  cases hb : s.busy with
  | true => exact hostWrite_busy hb ha halign
  | false =>
    cases hreg : regAt off with
    | none => exact hostWrite_reserved hb ha halign hreg
    | some r =>
      rw [hreg] at hreadOnly
      have hcmd : r ≠ .cmd := fun hr => by
        rw [hr] at hreadOnly
        cases hreadOnly
      rw [hostWrite_store hb ha halign hreg hcmd, storeReg_readOnly hreadOnly]

/-- Settles O20: a busy unit drops every write, and an idle one has nothing to store at these offsets. -/
theorem readOnlyWritesIgnored : Obligations.ReadOnlyWritesIgnored := by
  unfold Obligations.ReadOnlyWritesIgnored
  intro s a w rest off hturn hi ha hoff
  obtain ⟨halign, hreadOnly⟩ := regAt_readOnly hoff
  exact (step_input hturn hi).trans (hostWrite_readOnly ha halign hreadOnly)

end Sys2Proof.Machine

/-! The tables (R40 to R45). -/

namespace Sys2Proof.Machine

/-- Settles O4: each property is checked digit by digit. -/
theorem tableProperties : Obligations.TableProperties := by
  unfold Obligations.TableProperties
  refine ⟨?lcode, ?gcode, ?rcode, ?reversed, ?distinct, rfl, ?parity⟩ <;> decide

end Sys2Proof.Machine

/-! Host accesses (R50 to R55): which reach the unit, which have a meaning, and what a read returns. -/

namespace Sys2Proof.Machine

/-! ## Address decode (R50, R52) -/

theorem base_mod : Config.base % 64 = 0 := Nat.mul_mod_right 64 _

theorem windowOffset_window {off : Nat} (h : off < 64) : windowOffset (.window off) = some off := if_pos h

theorem windowOffset_physical {off : Nat} (h : off < 64) :
    windowOffset (.physical (Config.base + off)) = some off := by
  rw [windowOffset, if_pos (by omega), Nat.add_sub_cancel_left]

theorem windowOffset_physical_outside {p : Nat} (h : p < Config.base ∨ Config.base + 64 ≤ p) :
    windowOffset (.physical p) = none := if_neg (by omega)

/-- An access has no meaning exactly when it is inside the window and not an aligned 32-bit one (R53). -/
theorem accessAdmitted_eq_false {a : BusAddr} {width : Width} :
    accessAdmitted a width = false ↔ ∃ off, windowOffset a = some off ∧ accessWf width off = false := by
  cases ha : windowOffset a <;> simp [accessAdmitted, ha]

/-! ## One access -/

/-- Every command answers a next state from every state (R72, R79). -/
theorem exec_answers (i : Instr) (s : State) : ∃ t, exec i s = .next t := by
  by_cases hnop : i = .nop
  · rw [hnop, exec_nop]
    split <;> exact ⟨_, rfl⟩
  · obtain ⟨eval, hf⟩ := commandFunction_isSome hnop
    obtain ⟨-, h⟩ | ⟨-, -, h⟩ | ⟨-, -, h⟩ := runCommand_cases (exec_of_function hf s).symm <;> exact ⟨_, h⟩

section
variable {s : State} {a : BusAddr} {width : Width} {w : Word}

theorem hostWrite_outside (ha : windowOffset a = none) : hostWrite a width w s = .next s := by
  rw [hostWrite, ha]

theorem hostRead_outside (ha : windowOffset a = none) : hostRead a width s = .next s := by
  rw [hostRead, ha]

/-- An aligned 32-bit read returns the register at its offset (R55). -/
theorem hostRead_inside {off : Nat} (ha : windowOffset a = some off) (hwf : accessWf width off = true) :
    hostRead a width s = .next (setRdata (readOffset s off) s) := by
  simp only [hostRead, ha, if_pos hwf]

/-- An aligned 32-bit write is dropped, stored, or run as a command; it always answers. -/
theorem hostWrite_inside {off : Nat} (ha : windowOffset a = some off) (hwf : accessWf width off = true) :
    ∃ t, hostWrite a width w s = .next t := by
  obtain ⟨rfl, halign⟩ := (accessWf_iff width off).mp hwf
  cases hb : s.busy with
  | true => exact ⟨_, hostWrite_busy hb ha halign⟩
  | false =>
    cases hreg : regAt off with
    | none => exact ⟨_, hostWrite_reserved hb ha halign hreg⟩
    | some r =>
      by_cases hcmd : r = .cmd
      · obtain ⟨t, ht⟩ := exec_answers (decode w) s
        exact ⟨t, by simp [hostWrite, ha, hwf, hb, hreg, hcmd, ht]⟩
      · exact ⟨_, hostWrite_store hb ha halign hreg hcmd⟩

theorem hostWrite_refused (h : accessAdmitted a width = false) : hostWrite a width w s = .refused .accessForm := by
  obtain ⟨off, ha, hwf⟩ := accessAdmitted_eq_false.mp h
  simp [hostWrite, ha, hwf]

theorem hostRead_refused (h : accessAdmitted a width = false) : hostRead a width s = .refused .accessForm := by
  obtain ⟨off, ha, hwf⟩ := accessAdmitted_eq_false.mp h
  simp [hostRead, ha, hwf]

theorem accessWf_of_admitted {off : Nat} (h : accessAdmitted a width = true) (ha : windowOffset a = some off) :
    accessWf width off = true := by
  rwa [accessAdmitted, ha] at h

theorem hostWrite_answers (h : accessAdmitted a width = true) : ∃ t, hostWrite a width w s = .next t := by
  cases ha : windowOffset a with
  | none => exact ⟨s, hostWrite_outside ha⟩
  | some off => exact hostWrite_inside ha (accessWf_of_admitted h ha)

theorem hostRead_answers (h : accessAdmitted a width = true) : ∃ t, hostRead a width s = .next t := by
  cases ha : windowOffset a with
  | none => exact ⟨s, hostRead_outside ha⟩
  | some off => exact ⟨_, hostRead_inside ha (accessWf_of_admitted h ha)⟩

end

/-! ## One outside event -/

theorem hostInput_answers {x : HostInput} (h : inputAdmitted x = true) (s : State) :
    ∃ t, hostInput x s = .next t := by
  cases x with
  | write a width w => exact hostWrite_answers h
  | read a width => exact hostRead_answers h
  | poll => exact ⟨_, rfl⟩
  | reset => exact ⟨_, rfl⟩

theorem hostInput_refused {x : HostInput} (h : inputAdmitted x = false) (s : State) :
    hostInput x s = .refused .accessForm := by
  cases x with
  | write a width w => exact hostWrite_refused h
  | read a width => exact hostRead_refused h
  | poll => cases h
  | reset => cases h

/-! ## Where a step stops -/

/-- The three ways a step can end, each with when it does: the engine's fault, the refusal of the next input, and a
next state. -/
theorem step_trichotomy (s : State) :
    (engineTurn s = true ∧ s.pend.op = 0 ∧ step s = .fault .nopPending) ∨
    (engineTurn s = false ∧ (∃ x rest, s.inputs = x :: rest ∧ inputAdmitted x = false) ∧
      step s = .refused .accessForm) ∨
    ((engineTurn s = true → s.pend.op ≠ 0) ∧
      (engineTurn s = false → ∀ x rest, s.inputs = x :: rest → inputAdmitted x = true) ∧ ∃ t, step s = .next t) := by
  cases hturn : engineTurn s with
  | true =>
    rw [step_engine hturn]
    obtain ⟨hop, hfault⟩ | ⟨eval, hop, -, hnext⟩ := engineStep_cases s ((engineTurn_iff s).mp hturn).1
    · exact .inl ⟨rfl, hop, hfault⟩
    · exact .inr (.inr ⟨fun _ => hop, Bool.noConfusion, _, hnext⟩)
  | false =>
    refine .inr ?_
    cases hi : s.inputs with
    | nil => exact .inr ⟨Bool.noConfusion, nofun, s, step_stays hturn hi⟩
    | cons x rest =>
      rw [step_input hturn hi]
      cases hx : inputAdmitted x with
      | false => exact .inl ⟨rfl, ⟨x, rest, rfl, hx⟩, hostInput_refused hx _⟩
      | true =>
        refine .inr ⟨Bool.noConfusion, fun _ y tail h => ?_, hostInput_answers hx _⟩
        cases h
        exact hx

theorem step_eq_fault {s : State} {r : Fault} : step s = .fault r ↔ engineTurn s = true ∧ s.pend.op = 0 := by
  cases r
  obtain ⟨hturn, hop, hstep⟩ | ⟨hturn, -, hstep⟩ | ⟨hop, -, t, hstep⟩ := step_trichotomy s
  · simp [hturn, hop, hstep]
  · simp [hturn, hstep]
  · simpa [hstep] using hop

theorem step_eq_refused {s : State} {r : Refusal} :
    step s = .refused r ↔
      r = .accessForm ∧ engineTurn s = false ∧ ∃ x rest, s.inputs = x :: rest ∧ inputAdmitted x = false := by
  obtain ⟨hturn, -, hstep⟩ | ⟨hturn, hrefused, hstep⟩ | ⟨-, hadmitted, t, hstep⟩ := step_trichotomy s
  · simp [hturn, hstep]
  · simp only [hstep, hturn, hrefused, Host.Outcome.refused.injEq, and_true]
    exact eq_comm
  · rw [hstep]
    refine ⟨nofun, ?_⟩
    rintro ⟨-, hturn, x, rest, hi, hx⟩
    exact Bool.noConfusion (hx.symm.trans (hadmitted hturn x rest hi))

/-- In a legal state the latch holds no NOP at the engine's turn (R112). -/
theorem Legal.pend_op_ne_zero {s : State} (h : Legal s) (hturn : engineTurn s = true) : s.pend.op ≠ 0 := by
  obtain ⟨-, -, -, hlatch, -⟩ := h
  obtain ⟨hpend, hop⟩ := hlatch ((engineTurn_iff s).mp hturn).1
  rw [hpend]
  exact hop

theorem Legal.step_ne_fault {s : State} (h : Legal s) (r : Fault) : step s ≠ .fault r := fun hstep => by
  obtain ⟨hturn, hop⟩ := step_eq_fault.mp hstep
  exact h.pend_op_ne_zero hturn hop

/-- Settles O54: a step ends in one of three ways, and the latch of a busy legal unit excludes the fault. -/
theorem stepStopsOnlyThere : Obligations.StepStopsOnlyThere := by
  unfold Obligations.StepStopsOnlyThere
  exact ⟨fun _ _ => step_eq_fault, fun _ _ => step_eq_refused, fun _ h => h.step_ne_fault⟩

/-! ## A safe run -/

/-- A step adds no access to what the host will do: it leaves the list, or takes the first off. -/
theorem inputsAdmitted_step {s t : State} (h : InputsAdmitted s) (hstep : step s = .next t) : InputsAdmitted t := by
  have hsub : t.inputs ⊆ s.inputs := by
    obtain ⟨-, hkept, -⟩ | ⟨-, -, rfl⟩ | ⟨-, x, rest, hi, ht, -⟩ := step_inputs hstep
    · rw [hkept]
      exact List.Subset.refl _
    · exact List.Subset.refl _
    · rw [hi, ht]
      split
      · exact List.Subset.refl _
      · exact List.subset_cons_self x rest
  exact fun x hx => h x (hsub hx)

/-- Settles O55: legality excludes the fault and the host's discipline the refusal, and a step keeps both. -/
theorem safeRunNeverStops : Obligations.SafeRunNeverStops := by
  unfold Obligations.SafeRunNeverStops
  rintro s ⟨hlegal, hinputs⟩
  obtain ⟨-, -, hfault⟩ | ⟨-, ⟨x, rest, hi, hx⟩, -⟩ | ⟨-, -, t, hstep⟩ := step_trichotomy s
  · exact absurd hfault (hlegal.step_ne_fault _)
  · exact Bool.noConfusion (hx.symm.trans (hinputs x (hi ▸ List.mem_cons_self)))
  · exact ⟨t, hstep, stepKeepsLegal s t hlegal hstep, inputsAdmitted_step hinputs hstep⟩

/-! ## The host's turn at an access -/

theorem readOffset_hostPassed (s : State) (rest : List HostInput) (off : Nat) :
    readOffset (hostPassed s rest) off = readOffset s off := rfl

/-- Settles O17: the host's progress is no register, so the read returns what stood there before the step. -/
theorem readReturnsRegister : Obligations.ReadReturnsRegister := by
  unfold Obligations.ReadReturnsRegister
  intro s a rest off hturn hi ha halign
  have hwf := (accessWf_iff .w32 off).mpr ⟨rfl, halign⟩
  exact ⟨_, (step_input hturn hi).trans (hostRead_inside ha hwf), readOffset_hostPassed s rest off, rfl⟩

/-- Settles O22: a write and a read of this form are not admitted, so the step that meets one is refused. -/
theorem oddAccessRefused : Obligations.OddAccessRefused := by
  unfold Obligations.OddAccessRefused
  intro s a width w rest off hturn hi ha hodd
  have hform : accessWf width off = false := by
    rw [← Bool.not_eq_true, accessWf_iff, not_and_or]
    exact hodd
  have hrefused := accessAdmitted_eq_false.mpr ⟨off, ha, hform⟩
  obtain hi | hi := hi <;> exact step_eq_refused.mpr ⟨rfl, hturn, _, rest, hi, hrefused⟩

/-- Settles O23: the window is the 64 bytes from BASE, and an access elsewhere is only the host's progress. -/
theorem addressDecode : Obligations.AddressDecode := by
  unfold Obligations.AddressDecode
  refine ⟨base_mod, fun off h => ⟨windowOffset_physical h, windowOffset_window h⟩,
    fun p h => windowOffset_physical_outside h, ?_⟩
  intro s a width w rest hturn hi ha
  obtain hi | hi := hi
  · exact (step_input hturn hi).trans (hostWrite_outside ha)
  · exact (step_input hturn hi).trans (hostRead_outside ha)

end Sys2Proof.Machine

/-! Decoding and encoding command words (R70 to R72). -/

namespace Sys2Proof

theorem opField_encodeWith (ignored : BitVec 29) (i : Instr) : opField (encodeWith ignored i) = i.opcode :=
  BitVec.extractLsb'_append_eq_right

theorem opcode_decode (w : Word) : (decode w).opcode = opField w :=
  Machine.opcode_ofOpcode (opField w)

theorem decode_encodeWith (ignored : BitVec 29) (i : Instr) : decode (encodeWith ignored i) = i := by
  rw [decode, opField_encodeWith, Machine.ofOpcode_opcode]

theorem decode_encode (i : Instr) : decode (encode i) = i :=
  decode_encodeWith 0 i

theorem encodeWith_decode (w : Word) : encodeWith (w.extractLsb' 3 29) (decode w) = w := by
  rw [encodeWith, opcode_decode, opField, BitVec.extractLsb'_append_extractLsb']

/-- Settles O2: a command word is its ignored bits over the code, and the OP field is the code. -/
theorem decodeEncodeAgree : Obligations.DecodeEncodeAgree := by
  unfold Obligations.DecodeEncodeAgree
  exact ⟨fun i ignored => decode_encodeWith ignored i, encodeWith_decode⟩

theorem tableMatch_eq (i : Instr) : tableMatch i = i.opcode.setWidth 32 := by
  cases i <;> rfl

theorem getLsbD_opMask {b : Nat} (hb : b < 32) : (0x00000007 : Word).getLsbD b = decide (b < 3) := by
  revert b
  decide

theorem getLsbD_opField (w : Word) (b : Nat) : (opField w).getLsbD b = (decide (b < 3) && w.getLsbD b) := by
  rw [opField, BitVec.getLsbD_extractLsb', Nat.zero_add]

/-- The mask of the opcode table keeps the OP field (R72). -/
theorem and_opMask (w : Word) : w &&& 0x00000007 = (opField w).setWidth 32 := by
  apply BitVec.eq_of_getLsbD_eq
  intro b hb
  rw [BitVec.getLsbD_and, getLsbD_opMask hb, BitVec.getLsbD_setWidth, getLsbD_opField, Bool.and_comm]
  simp [hb]

/-- Different codes are different commands. -/
theorem decode_eq_iff_opField_eq {w v : Word} : decode w = decode v ↔ opField w = opField v := by
  constructor
  · intro h
    rw [← opcode_decode, h, opcode_decode]
  · intro h
    rw [decode, h, decode]

theorem opField_eq_iff {w v : Word} : opField w = opField v ↔ ∀ b, b < 3 → w.getLsbD b = v.getLsbD b := by
  rw [BitVec.eq_of_getLsbD_eq_iff]
  refine forall₂_congr fun b hb => ?_
  rw [getLsbD_opField, getLsbD_opField, decide_eq_true hb, Bool.true_and, Bool.true_and]

/-- Settles O3: under the mask a word is its OP field, which is the code of the command it decodes to. -/
theorem decodeReadsOnlyOpField : Obligations.DecodeReadsOnlyOpField := by
  unfold Obligations.DecodeReadsOnlyOpField
  constructor
  · intro w
    rw [and_opMask, tableMatch_eq, opcode_decode]
  · intro w v
    exact decode_eq_iff_opField_eq.trans opField_eq_iff

/-- Settles O1: each word is the word of its command with the ignored bits written out. -/
theorem commandWordsDecode : Obligations.CommandWordsDecode := by
  unfold Obligations.CommandWordsDecode
  exact ⟨decode_encode .nop, decode_encode .compute, decode_encode .validate, decode_encode .normalize,
    decode_encode .encode, decode_encode .run, decode_encode .reserved6, decode_encode .reserved7,
    decode_encodeWith 1 .nop, decode_encodeWith 1 .run, decode_encodeWith 0x1FFFFFFF .reserved6,
    decode_encodeWith 1 .reserved7⟩

end Sys2Proof

/-! Host statements carried out on an idle unit (R74, R75, R82, R83), and WAIT. -/

namespace Sys2Proof.Machine

/-! ## A command's statement -/

/-- Settles O44: a command accepts, completes or drops, and NOP stores or drops. -/
theorem everyCommandAnswers : Obligations.EveryCommandAnswers := by
  unfold Obligations.EveryCommandAnswers
  exact exec_answers

/-- A write to CMD of an idle unit runs the command it decodes to (R100). -/
theorem hostWrite_cmd {s : State} {a : BusAddr} {w : Word} (hidle : s.busy = false)
    (ha : windowOffset a = some 0x00) : hostWrite a .w32 w s = exec (decode w) s := by
  have hwf := (accessWf_iff .w32 0x00).mpr ⟨rfl, rfl⟩
  have hreg : regAt 0x00 = some .cmd := rfl
  simp [hostWrite, ha, hwf, hidle, hreg]

/-- A step at an idle unit's CMD write. -/
theorem step_cmd {s : State} {a : BusAddr} {w : Word} {rest : List HostInput} (hidle : s.busy = false)
    (hi : s.inputs = .write a .w32 w :: rest) (ha : windowOffset a = some 0x00) :
    step s = exec (decode w) (hostPassed s rest) :=
  (step_input (engineTurn_idle hidle) hi).trans (hostWrite_cmd (s := hostPassed s rest) hidle ha)

/-- Settles O59: the statement is one CMD write of a word that decodes to its command. -/
theorem commandStatementRuns : Obligations.CommandStatementRuns := by
  unfold Obligations.CommandStatementRuns
  intro s i rest hidle hi
  have hstep : step s = exec (decode (encode i)) (hostPassed s rest) :=
    step_cmd hidle hi (windowOffset_window (by decide))
  rw [hstep, decode_encode]

/-! ## CONFIG -/

theorem symOfBit_symBit (sym : Symbology) : symOfBit (symBit sym) = sym := by
  cases sym <;> rfl

/-- Bit 0 of the CONFIG word is the symbology, as the length stands from bit 8 on (R74). -/
theorem getLsbD_configImm_zero (sym : Symbology) (len : Nat) : (configImm sym len).getLsbD 0 = symBit sym := by
  rw [configImm, BitVec.getLsbD_or, BitVec.getLsbD_shiftLeft, getLsbD_bitWord]
  simp

/-- Bits 15:8 of the CONFIG word are the length (R74). -/
theorem configImm_len (sym : Symbology) (len : Nat) :
    (configImm sym len).extractLsb' 8 8 = BitVec.ofNat 8 len := by
  apply BitVec.eq_of_getLsbD_eq
  intro b hb
  rw [BitVec.getLsbD_extractLsb', configImm, BitVec.getLsbD_or, BitVec.getLsbD_shiftLeft, getLsbD_bitWord,
    BitVec.getLsbD_ofNat, BitVec.getLsbD_ofNat]
  simp [hb, show 8 + b < 32 by omega, show b < 32 by omega]

/-- Settles O58: the statement is one write to CONFIG, and the two fields of its word are the operands. -/
theorem configStatementStores : Obligations.ConfigStatementStores := by
  unfold Obligations.ConfigStatementStores
  intro s sym len rest hidle _ hi
  rw [step_store (r := .config) hidle hi (windowOffset_window (by decide)) rfl rfl (by decide), storeReg,
    getLsbD_configImm_zero, symOfBit_symBit, configImm_len]
  rfl

/-! ## LOADSTR -/

/-- The word of LOADSTR for IN_CHARj stores the characters 4j to 4j + 3, 0 for absent ones (R75). -/
theorem storeInChar_stringImm (text : List Byte) (j : Nat) (chars : Vector Byte 16) (k : Fin 16) :
    (storeInChar j (stringImm text j) chars)[k] = if k.val / 4 = j then text.getD k.val 0 else chars[k] := by
  rw [storeInChar_getElem]
  refine ite_congr rfl (fun hk => ?_) fun _ => rfl
  rw [stringImm, packCells_extract _ (Nat.mod_lt _ (by decide)) (by decide), ← hk, Nat.div_add_mod]

/-- CHAR[0..15] after the four writes of LOADSTR. -/
def loadedChars (text : List Byte) (chars : Vector Byte 16) : Vector Byte 16 :=
  storeInChar 3 (stringImm text 3) (storeInChar 2 (stringImm text 2)
    (storeInChar 1 (stringImm text 1) (storeInChar 0 (stringImm text 0) chars)))

/-- Each cell belongs to one of the four words. -/
theorem loadedChars_getElem (text : List Byte) (chars : Vector Byte 16) (k : Fin 16) :
    (loadedChars text chars)[k] = text.getD k.val 0 := by
  obtain hk | hk | hk | hk : k.val / 4 = 0 ∨ k.val / 4 = 1 ∨ k.val / 4 = 2 ∨ k.val / 4 = 3 := by omega
  all_goals simp only [loadedChars, storeInChar_stringImm, hk, Nat.reduceEqDiff, if_true, if_false]

theorem run_of_step {M : Host.Core} {s t : M.State} (h : M.step s = .next t) (n : Nat) :
    M.run (n + 1) s = M.run n t := by
  rw [Host.Core.run, h]

/-- A step at an idle unit's write to IN_CHARj, field by field. -/
theorem step_storeWord_inChar {s : State} (hidle : s.busy = false) {j : Nat} (hj : j < 4) (w : Word)
    (chars : Vector Byte 16) (rest : List HostInput) (countdown : Nat) :
    step { s with chars := chars, inputs := storeWord (0x10 + 4 * j) w :: rest, countdown := countdown } =
      .next { s with chars := storeInChar j w chars, inputs := rest, countdown := countdown - 1 } :=
  step_store (r := .inChar j)
    (s := { s with chars := chars, inputs := storeWord (0x10 + 4 * j) w :: rest, countdown := countdown })
    hidle rfl (windowOffset_window (by omega)) (by omega) (regAt_inChar hj) (by simp)

/-- A run of the four writes of LOADSTR. -/
theorem run_loadStr {s : State} {text : List Byte} {rest : List HostInput} (hidle : s.busy = false)
    (hi : s.inputs = expandStmt (.loadStr text) ++ rest) :
    core.run 4 s =
      .next { s with chars := loadedChars text s.chars, inputs := rest, countdown := s.countdown - 4 } := by
  have hs : s = { s with chars := s.chars, inputs := expandStmt (.loadStr text) ++ rest,
                         countdown := s.countdown } := by rw [← hi]
  calc core.run 4 s
      = core.run 4 { s with chars := s.chars, inputs := expandStmt (.loadStr text) ++ rest,
                            countdown := s.countdown } := congrArg (core.run 4) hs
    _ = core.run 3 _ := run_of_step (M := core) (step_storeWord_inChar hidle (j := 0) (by decide) _ _ _ _) 3
    _ = core.run 2 _ := run_of_step (M := core) (step_storeWord_inChar hidle (j := 1) (by decide) _ _ _ _) 2
    _ = core.run 1 _ := run_of_step (M := core) (step_storeWord_inChar hidle (j := 2) (by decide) _ _ _ _) 1
    _ = core.run 0 _ := run_of_step (M := core) (step_storeWord_inChar hidle (j := 3) (by decide) _ _ _ _) 0

/-- Settles O57: each of the four writes stores its word, and together they cover the sixteen cells. -/
theorem loadStringFillsCells : Obligations.LoadStringFillsCells := by
  unfold Obligations.LoadStringFillsCells
  intro s text rest hidle _ hi
  exact ⟨_, run_loadStr hidle hi, rfl, loadedChars_getElem text s.chars⟩

/-! ## WAIT -/

theorem readOffset_status_busy (s : State) : (readOffset s 0x08).getLsbD 0 = s.busy := by
  show (statusWord s).getLsbD 0 = s.busy
  rw [getLsbD_statusWord s (by decide), if_pos rfl]

/-- A WAIT that reads BUSY = 1 stands at the head of the list again (R82). -/
theorem hostPoll_busy {s : State} (hb : s.busy = true) :
    hostPoll s = { s with rdata := readOffset s 0x08, inputs := .poll :: s.inputs } := by
  rw [hostPoll_eq, if_pos hb]

/-- A WAIT that reads BUSY = 0 is done (R82). -/
theorem hostPoll_idle {s : State} (hb : s.busy = false) : hostPoll s = setRdata (readOffset s 0x08) s := by
  rw [hostPoll_eq, if_neg (by simp [hb])]
  rfl

/-- Settles O45: the host's turn is one read of STATUS, whose bit 0 is BUSY. -/
theorem waitPollsUntilIdle : Obligations.WaitPollsUntilIdle := by
  unfold Obligations.WaitPollsUntilIdle
  intro s rest hturn hi
  have hstep : step s = .next (hostPoll (hostPassed s rest)) := step_input hturn hi
  refine ⟨fun hb => ?_, fun hb => ?_, readOffset_status_busy s⟩
  · rw [hstep, hostPoll_busy (s := hostPassed s rest) hb, hi]
    rfl
  · rw [hstep, hostPoll_idle (s := hostPassed s rest) hb]
    rfl

end Sys2Proof.Machine

/-! The command cycle: acceptance, the engine's turn, and which command a step runs (R100 to R105, R112). -/

namespace Sys2Proof.Machine

/-- Settles O21: the write is the host's turn, a busy unit drops it, and the host's progress is no part of the unit. -/
theorem busyWritesDropped : Obligations.BusyWritesDropped := by
  unfold Obligations.BusyWritesDropped
  intro s a w rest off hbusy hcount hi ha halign
  have hstep : step s = .next (hostPassed s rest) :=
    (step_input (engineTurn_waiting hcount hi) hi).trans
      (hostWrite_busy (s := hostPassed s rest) hbusy ha halign)
  exact ⟨_, hstep, rfl⟩

/-- Settles O24: an idle unit leaves the host the turn, and a CMD write runs the command it decodes to. -/
theorem cmdWriteRunsDecoded : Obligations.CmdWriteRunsDecoded := by
  unfold Obligations.CmdWriteRunsDecoded
  exact fun _ _ _ _ => step_cmd

/-- At the engine's turn a step runs the latched command (R104, R112). -/
theorem step_latched {s : State} (hturn : engineTurn s = true) (hop : s.pend.op ≠ 0) :
    step s = exec (Instr.ofOpcode s.pend.op) s := by
  rw [step_engine hturn, engineStep, if_neg hop]

/-- Settles O25: in each of the two cases it is the engine's turn. -/
theorem engineStepRunsLatched : Obligations.EngineStepRunsLatched := by
  unfold Obligations.EngineStepRunsLatched
  exact fun s hbusy hwhen hop => step_latched ((engineTurn_iff s).mpr ⟨hbusy, hwhen⟩) hop

/-- Settles O28: the unit accepts the command, and acceptance writes these fields of the unit. -/
theorem acceptanceLatchesInputs : Obligations.AcceptanceLatchesInputs := by
  unfold Obligations.AcceptanceLatchesInputs
  intro i s hnop hidle
  refine ⟨issue i.opcode s, exec_idle hnop hidle, ?_⟩
  rw [issue_eq]
  rfl

/-! ## A placed command (log entry 7) -/

/-- Any command but NOP is placed as accepted, with no host step left before the engine's. -/
theorem placeCommand_of_ne_nop {w : Word} (h : decode w ≠ .nop) (s : State) :
    placeCommand w s = setSchedule (s.issued + 1) 0 (issue (opField w) s) := by
  unfold placeCommand
  split
  · exact absurd ‹_› h
  · rfl

/-- NOP is placed as the next host write to CMD of an idle unit. -/
theorem placeCommand_nop {w : Word} (h : decode w = .nop) (s : State) :
    placeCommand w s = setBusy false (setInputs (.write (.window 0x00) .w32 w :: s.inputs) s) := by
  rw [placeCommand, h]

theorem pending_placeCommand {w : Word} (h : decode w ≠ .nop) (s : State) :
    Pending (decode w) (placeCommand w s) := by
  rw [placeCommand_of_ne_nop h]
  exact ⟨rfl, (opcode_decode w).symm⟩

theorem step_placeCommand {w : Word} (h : decode w ≠ .nop) (s : State) :
    step (placeCommand w s) = exec (decode w) (placeCommand w s) := by
  obtain ⟨hbusy, hop⟩ := pending_placeCommand h s
  have hcount : (placeCommand w s).countdown = 0 := by rw [placeCommand_of_ne_nop h]; rfl
  rw [step_latched ((engineTurn_iff _).mpr ⟨hbusy, .inl hcount⟩) (hop ▸ opcode_ne_zero h), hop, ofOpcode_opcode]

theorem step_placeCommand_nop {w : Word} (h : decode w = .nop) (s : State) :
    step (placeCommand w s) = exec .nop { s with busy := false, countdown := s.countdown - 1 } := by
  rw [placeCommand_nop h, step_cmd rfl rfl (windowOffset_window (by decide)), h]
  rfl

/-- Settles O27: every 32-bit word decodes; a command but NOP is placed pending at the engine's turn, NOP as a CMD
write at the host's. -/
theorem placedCommandRunsNext : Obligations.PlacedCommandRunsNext := by
  unfold Obligations.PlacedCommandRunsNext
  have hdecode (w : Nat) : decodeTableWord 32 w = some (decode (BitVec.ofNat 32 (w % 2 ^ 32))) := rfl
  constructor
  · intro s w hw
    have hne : decode (BitVec.ofNat 32 (w % 2 ^ 32)) ≠ .nop := fun h => hw ((hdecode w).trans (congrArg some h))
    exact ⟨_, hdecode w, step_placeCommand hne s, pending_placeCommand hne s⟩
  · intro s w hw
    exact step_placeCommand_nop (Option.some.inj ((hdecode w).symm.trans hw)) s

end Sys2Proof.Machine

/-! What a completion reports, and on what it depends (R104, R107 to R111, R203). -/

namespace Sys2Proof.Machine

/-! ## A report is the outcome of the latched command -/

theorem latchedOutcome_of_function {l : Latch} {eval : Operands → CmdOutcome}
    (h : commandFunction (Instr.ofOpcode l.op) = some eval) : latchedOutcome l = some (eval (operandsOf l)) := by
  rw [latchedOutcome, h, Option.map_some]

/-- A successful completion reports the outcome of the latch (R109). -/
theorem reportsLatched_completed_ok {s : State} {res : CmdResult} (h : latchedOutcome s.pend = some (.ok res)) :
    ReportsLatched (completed s true 0 (resultsOf res)) :=
  fun _ => ⟨fun _ => ⟨res, h, rfl⟩, fun herr => absurd rfl herr⟩

/-- A failed completion reports the error of the latch (R110). -/
theorem reportsLatched_completed_error {s : State} {kind : ErrorKind}
    (h : latchedOutcome s.pend = some (.error kind)) :
    ReportsLatched (completed s false (errorCode kind) Results.zero) :=
  fun _ => ⟨Bool.noConfusion, fun _ => ⟨kind, h, rfl⟩⟩

/-- `ReportsLatched` reads only STATUS, the results and the latch. -/
theorem reportsLatched_of_unchanged {s t : State} (h : ReportsLatched s) (hbusy : t.busy = s.busy)
    (hrvalid : t.rvalid = s.rvalid) (herr : t.err = s.err) (hresults : t.results = s.results)
    (hpend : t.pend = s.pend) : ReportsLatched t := by
  rw [ReportsLatched, hbusy, hrvalid, herr, hresults, hpend]
  exact h

/-- Settles O53: of the four effects of a step a completion reports the outcome of the latch, which it keeps; a reset
reports nothing; acceptance leaves the unit busy; and any other step leaves what `ReportsLatched` reads. -/
theorem stepKeepsReportsLatched : Obligations.StepKeepsReportsLatched := by
  unfold Obligations.StepKeepsReportsLatched
  intro s t hs hstep
  obtain ⟨-, eval, -, hf, hcompletion⟩ | ⟨-, rest, -, rfl⟩ | ⟨-, -, a, w, rest, -, -, -, rfl⟩ |
    ⟨-, hbusy, hrvalid, herr, hresults, hpend, -⟩ := step_effect hstep
  · have hout := latchedOutcome_of_function hf
    obtain ⟨res, hr, rfl⟩ | ⟨kind, hr, rfl⟩ := hcompletion
    · exact reportsLatched_completed_ok (hr ▸ hout)
    · exact reportsLatched_completed_error (hr ▸ hout)
  · exact fun _ => ⟨Bool.noConfusion, fun herr => absurd rfl herr⟩
  · exact Bool.noConfusion
  · exact reportsLatched_of_unchanged hs hbusy hrvalid herr hresults hpend

/-- Settles O42: a command function succeeds or fails, and the completion of either is the frame with its STATUS. -/
theorem completionFrame : Obligations.CompletionFrame := by
  unfold Obligations.CompletionFrame
  intro i s hnop hp
  obtain ⟨eval, hf⟩ := commandFunction_isSome hnop
  refine ⟨complete eval s, exec_pending hf hp, ?_⟩
  obtain ⟨res, -, hc⟩ | ⟨kind, -, hc⟩ := complete_cases eval s
  · rw [hc]
    exact ⟨rfl, fun herr => absurd rfl herr, fun _ => rfl⟩
  · rw [hc]
    exact ⟨rfl, fun _ => ⟨rfl, rfl⟩, fun herr => absurd herr (errorCode_ne_zero kind)⟩

/-! ## The input check comes first (R107, R108, R203) -/

/-- Each of the five commands that read input tests its length as R107 says and reports an error of the input check
as its own. -/
theorem commandFunction_of_readsInput {i : Instr} (h : readsInput i = true) (s : State) :
    ∃ eval ok, commandFunction i = some eval ∧ (ok = true ↔ lengthAdmitted i s.pend.sym (latchedLen s)) ∧
      ∀ e, checkInput ok (operandsOf s.pend) = .error e → eval (operandsOf s.pend) = .error e := by
  cases i
  case nop => cases h
  case compute => exact ⟨evalCompute, _, rfl, isPayloadLength_iff s, fun e he => by rw [evalCompute, he]⟩
  case validate => exact ⟨evalValidate, _, rfl, isTotalLength_iff s, fun e he => by rw [evalValidate, he]⟩
  case normalize => exact ⟨evalNormalize, _, rfl, isAtMostTotal_iff s, fun e he => by rw [evalNormalize, he]⟩
  case encode => exact ⟨evalEncode, _, rfl, isTotalLength_iff s, fun e he => by rw [evalEncode, he]⟩
  case run => exact ⟨evalRun, _, rfl, isAtMostTotal_iff s, fun e he => by rw [evalRun, he]⟩
  case reserved6 => cases h
  case reserved7 => cases h

/-- An admitted length is within the sixteen character cells. -/
theorem latchedLen_le_of_admitted {i : Instr} {s : State} (hr : readsInput i = true)
    (h : lengthAdmitted i s.pend.sym (latchedLen s)) : latchedLen s ≤ 16 :=
  (lengthAdmitted_le hr h).trans ((total_le s.pend.sym).trans (by decide))

/-- A pending command whose function fails completes with the error (R110). -/
theorem exec_pending_error {i : Instr} {eval : Operands → CmdOutcome} {s : State} {kind : ErrorKind}
    (hf : commandFunction i = some eval) (hp : Pending i s) (he : eval (operandsOf s.pend) = .error kind) :
    exec i s = .next (completed s false (errorCode kind) Results.zero) := by
  rw [exec_pending hf hp, complete_error he, completed]

/-- Settles O38: the input check fails on the length before it reads a character. -/
theorem lengthErrorReported : Obligations.LengthErrorReported := by
  unfold Obligations.LengthErrorReported
  intro i s hr hp hlen
  obtain ⟨eval, ok, hf, hok, herror⟩ := commandFunction_of_readsInput hr s
  exact exec_pending_error hf hp (herror _ (checkInput_of_length _ (mt hok.mp hlen)))

/-- Settles O39: the input check passes the length and fails on the character. -/
theorem digitErrorReported : Obligations.DigitErrorReported := by
  unfold Obligations.DigitErrorReported
  intro i s hr hp hlen hbad
  obtain ⟨eval, ok, hf, hok, herror⟩ := commandFunction_of_readsInput hr s
  have hcheck := checkInput_of_bad (hok.mpr hlen) (latchedLen_le_of_admitted hr hlen) hbad
  exact exec_pending_error hf hp (herror _ hcheck)

/-! ## The examined operands (R73, R111) -/

/-- The operands without the characters from L on, which no command examines (R73). -/
def examined (o : Operands) : Operands :=
  { o with chars := o.chars.take o.len }

theorem checkInput_examined (ok : Bool) (o : Operands) : checkInput ok (examined o) = checkInput ok o := by
  simp only [checkInput, examined, List.take_take, min_self]

/-- A command function looks at nothing but the examined operands. -/
theorem commandFunction_examined {i : Instr} {eval : Operands → CmdOutcome} (h : commandFunction i = some eval)
    (o : Operands) : eval (examined o) = eval o := by
  cases i <;> cases h
  case compute => rw [evalCompute, checkInput_examined]; rfl
  case validate => rw [evalValidate, checkInput_examined]; rfl
  case normalize => rw [evalNormalize, checkInput_examined]; rfl
  case encode => rw [evalEncode, checkInput_examined]; rfl
  case run => rw [evalRun, checkInput_examined]; rfl
  case reserved6 => rfl
  case reserved7 => rfl

/-- Latches that agree on the symbology, the length L and the first L characters have the same examined operands. -/
theorem examined_operandsOf_congr {s s' : State} (hsym : s.pend.sym = s'.pend.sym)
    (hlen : latchedLen s = latchedLen s')
    (hchars : ∀ k, k < latchedLen s → latchedChar s k = latchedChar s' k) :
    examined (operandsOf s.pend) = examined (operandsOf s'.pend) := by
  have htake : s.pend.chars.toList.take (latchedLen s) = s'.pend.chars.toList.take (latchedLen s) := by
    refine List.ext_getElem (by simp) fun k hk hk' => ?_
    obtain ⟨hlt, hcell⟩ : k < latchedLen s ∧ k < 16 := by simpa using hk
    simpa [latchedChar, List.getD_eq_getElem?_getD, hcell] using hchars k hlt
  show Operands.mk s.pend.sym (latchedLen s) (s.pend.chars.toList.take (latchedLen s)) =
    Operands.mk s'.pend.sym (latchedLen s') (s'.pend.chars.toList.take (latchedLen s'))
  rw [htake, hsym, hlen]

/-- Two states whose latches come to the same outcome complete with the same report. -/
theorem complete_report_congr {eval : Operands → CmdOutcome} {s s' : State}
    (h : eval (operandsOf s.pend) = eval (operandsOf s'.pend)) :
    (complete eval s).results = (complete eval s').results ∧ (complete eval s).err = (complete eval s').err ∧
      (complete eval s).rvalid = (complete eval s').rvalid := by
  obtain ⟨res, hr, hc⟩ | ⟨kind, hr, hc⟩ := complete_cases eval s
  · rw [hc, complete_ok (h.symm.trans hr)]
    exact ⟨rfl, rfl, rfl⟩
  · rw [hc, complete_error (h.symm.trans hr)]
    exact ⟨rfl, rfl, rfl⟩

/-- Settles O43: the two latches have the same examined operands, so the command function answers the same. -/
theorem outcomeDependsOnLatchAlone : Obligations.OutcomeDependsOnLatchAlone := by
  unfold Obligations.OutcomeDependsOnLatchAlone
  intro i s s' hnop hp hp' hsym hlen hchars
  obtain ⟨eval, hf⟩ := commandFunction_isSome hnop
  have hout : eval (operandsOf s.pend) = eval (operandsOf s'.pend) := by
    rw [← commandFunction_examined hf, examined_operandsOf_congr hsym hlen hchars, commandFunction_examined hf]
  exact ⟨_, _, exec_pending hf hp, exec_pending hf hp', complete_report_congr hout⟩

end Sys2Proof.Machine

/-! A pending command's way to its completion (R105, R230, R240). -/

namespace Sys2Proof.Machine

/-- While the outside world has the turn of a busy unit, LATENCY has not passed and some input is left. -/
theorem outsideTurn_busy {s : State} (hbusy : s.busy = true) (hturn : engineTurn s = false) :
    s.countdown ≠ 0 ∧ s.inputs ≠ [] := by
  rw [← Bool.not_eq_true, engineTurn_iff] at hturn
  exact ⟨fun h => hturn ⟨hbusy, .inl h⟩, fun h => hturn ⟨hbusy, .inr h⟩⟩

/-- The engine's step leaves BUSY 0 (R104). -/
theorem step_engine_busy {s t : State} (hturn : engineTurn s = true) (hstep : step s = .next t) :
    t.busy = false := by
  obtain ⟨-, _, -, -, ⟨_, -, rfl⟩ | ⟨_, -, rfl⟩⟩ | ⟨h, -⟩ | ⟨h, -⟩ | ⟨h, -⟩ := step_effect hstep
  · rfl
  · rfl
  all_goals exact Bool.noConfusion (h.symm.trans hturn)

/-- A reset leaves BUSY 0 (R230). -/
theorem step_reset_busy {s t : State} {rest : List HostInput} (hturn : engineTurn s = false)
    (hi : s.inputs = .reset :: rest) (hstep : step s = .next t) : t.busy = false := by
  rw [step_input hturn hi] at hstep
  cases hstep
  rfl

/-- A busy unit's host step that is no reset keeps BUSY and the latch and counts one host step. -/
theorem step_outside_busy {s t : State} (hbusy : s.busy = true) (hturn : engineTurn s = false)
    (hreset : ∀ rest, s.inputs ≠ .reset :: rest) (hstep : step s = .next t) :
    t.busy = true ∧ t.pend = s.pend ∧ t.countdown + 1 = s.countdown := by
  obtain ⟨hcount, hnonempty⟩ := outsideTurn_busy hbusy hturn
  obtain ⟨hbusy', hpend⟩ : t.busy = true ∧ t.pend = s.pend := by
    obtain ⟨h, -⟩ | ⟨-, rest, hi, -⟩ | ⟨-, hidle, -⟩ | ⟨-, hb, -, -, -, hpend, -⟩ := step_effect hstep
    · exact Bool.noConfusion (hturn.symm.trans h)
    · exact absurd hi (hreset rest)
    · exact Bool.noConfusion (hidle.symm.trans hbusy)
    · exact ⟨hb.trans hbusy, hpend⟩
  obtain ⟨h, -⟩ | ⟨-, hnil, -⟩ | ⟨-, x, rest, hi, -, hdown⟩ := step_inputs hstep
  · exact Bool.noConfusion (hturn.symm.trans h)
  · exact absurd hnil hnonempty
  · have hx : x ≠ .reset := fun hx => hreset rest (hx ▸ hi)
    have := hdown hbusy hx
    exact ⟨hbusy', hpend, by omega⟩

/-- Settles O60: the step is the engine's, or the outside world's with a reset next, or with another input next. -/
theorem busyStepCompletesOrCountsDown : Obligations.BusyStepCompletesOrCountsDown := by
  unfold Obligations.BusyStepCompletesOrCountsDown
  intro s hsafe hbusy
  obtain ⟨t, hstep, -⟩ := safeRunNeverStops s hsafe
  refine ⟨t, hstep, ?_⟩
  cases hturn : engineTurn s with
  | true =>
    obtain ⟨hlegal, -⟩ := hsafe
    exact .inl ⟨rfl, step_latched hturn (hlegal.pend_op_ne_zero hturn), step_engine_busy hturn hstep⟩
  | false =>
    by_cases hreset : ∃ rest, s.inputs = .reset :: rest
    · obtain ⟨rest, hi⟩ := hreset
      exact .inr (.inl ⟨rfl, ⟨rest, hi⟩, step_reset_busy hturn hi hstep⟩)
    · have hother : ∀ rest, s.inputs ≠ .reset :: rest := fun rest hi => hreset ⟨rest, hi⟩
      exact .inr (.inr ⟨rfl, hother, step_outside_busy hbusy hturn hother hstep⟩)

/-! ## The inputs before the completion -/

theorem inputsBeforeCompletion_poll {s : State} {rest : List HostInput} (hi : s.inputs = .poll :: rest) :
    inputsBeforeCompletion s = [] := by
  rw [inputsBeforeCompletion, hi]
  cases s.countdown <;> rfl

theorem inputsBeforeCompletion_cons {s : State} {x : HostInput} {rest : List HostInput} {n : Nat}
    (hi : s.inputs = x :: rest) (hx : x ≠ .poll) (hc : s.countdown = n + 1) :
    inputsBeforeCompletion s = x :: (rest.take n).takeWhile (· != .poll) := by
  rw [inputsBeforeCompletion, hi, hc, List.take_succ_cons, List.takeWhile_cons_of_pos (by simpa using hx)]

/-- A host step of a busy unit adds nothing to the inputs before the completion. -/
theorem inputsBeforeCompletion_step {s t : State} (hbusy : s.busy = true) (hturn : engineTurn s = false)
    (hstep : step s = .next t) (hdown : t.countdown + 1 = s.countdown) :
    inputsBeforeCompletion t ⊆ inputsBeforeCompletion s := by
  obtain ⟨h, -⟩ | ⟨-, hnil, -⟩ | ⟨-, x, rest, hi, ht, -⟩ := step_inputs hstep
  · exact Bool.noConfusion (hturn.symm.trans h)
  · exact absurd hnil (outsideTurn_busy hbusy hturn).2
  · by_cases hx : x = .poll
    · rw [if_pos ⟨hx, hbusy⟩, hx] at ht
      rw [inputsBeforeCompletion_poll ht]
      exact List.nil_subset _
    · rw [if_neg fun h => hx h.1] at ht
      rw [inputsBeforeCompletion_cons hi hx hdown.symm, inputsBeforeCompletion, ht]
      exact List.subset_cons_self _ _

/-- Settles O56, by induction on the host steps left: each step is the completion, or one host step nearer to it. -/
theorem acceptedCommandCompletes : Obligations.AcceptedCommandCompletes := by
  unfold Obligations.AcceptedCommandCompletes
  intro s
  induction hn : s.countdown generalizing s with
  | zero =>
    intro hsafe hbusy _
    obtain ⟨t, hstep, ⟨-, hexec, hdone⟩ | ⟨hturn, -⟩ | ⟨hturn, -⟩⟩ := busyStepCompletesOrCountsDown s hsafe hbusy
    · exact ⟨0, s, t, Nat.le_refl 0, rfl, hbusy, rfl, hexec, hstep, hdone⟩
    all_goals exact absurd hn (outsideTurn_busy hbusy hturn).1
  | succ n ih =>
    intro hsafe hbusy hreset
    obtain ⟨t, hstep, ⟨-, hexec, hdone⟩ | ⟨-, ⟨rest, hi⟩, -⟩ | ⟨hturn, -, hbusy', hpend, hdown⟩⟩ :=
      busyStepCompletesOrCountsDown s hsafe hbusy
    · exact ⟨0, s, t, Nat.zero_le _, rfl, hbusy, rfl, hexec, hstep, hdone⟩
    · rw [inputsBeforeCompletion_cons hi nofun hn] at hreset
      exact absurd List.mem_cons_self hreset
    · obtain ⟨t', hstep', hsafe'⟩ := safeRunNeverStops s hsafe
      obtain rfl : t = t' := Host.Outcome.next.inj (hstep.symm.trans hstep')
      have hreset' : .reset ∉ inputsBeforeCompletion t :=
        fun h => hreset (inputsBeforeCompletion_step hbusy hturn hstep hdown h)
      obtain ⟨k, u, v, hk, hrun, hu, hupend, hexec, hlast, hdone⟩ := ih t (by omega) hsafe' hbusy' hreset'
      exact ⟨k + 1, u, v, Nat.succ_le_succ hk, (run_of_step (M := core) hstep k).trans hrun, hu,
        hupend.trans hpend, hpend ▸ hexec, hlast, hdone⟩

end Sys2Proof.Machine

/-! The check digit and validation (R120 to R129). -/

namespace Sys2Proof.Machine

/-! ## The sums with the spec's weights (R121, R124) -/

theorem payloadSum_eq_sum (P : List Digit) :
    payloadSum P = ∑ i ∈ Finset.range P.length,
      (P.getD i 0).val * (if (P.length - 1 - i) % 2 = 0 then 3 else 1) := by
  rw [payloadSum, weightedSum_eq_sum]
  simp only [payloadWeight, Nat.zero_add]

theorem fullSum_eq_sum (D : List Digit) :
    fullSum D = ∑ i ∈ Finset.range D.length,
      (D.getD i 0).val * (if (D.length - 1 - i) % 2 = 0 then 1 else 3) := by
  rw [fullSum, weightedSum_eq_sum]
  simp only [fullWeight, Nat.zero_add]

theorem validDigits_eq_decide (d : List Digit) : validDigits d = decide (fullSum d % 10 = 0) :=
  beq_eq_decide _ _

/-- Settles O5: the recursive sum is the sum over the indices, and the check digit is defined from it. -/
theorem checkDigitIsWeightedSum : Obligations.CheckDigitIsWeightedSum := by
  unfold Obligations.CheckDigitIsWeightedSum
  intro P
  rw [← payloadSum_eq_sum]
  exact ⟨rfl, checkDigit_val P⟩

/-- Settles O6: the recursive sum is the sum over the indices, and a full string is a payload and its last digit. -/
theorem validIsWeightedSum : Obligations.ValidIsWeightedSum := by
  unfold Obligations.ValidIsWeightedSum
  refine ⟨fun D => ?_, fun m hm => ?_, fun m i hi => ?_⟩
  · rw [← fullSum_eq_sum]
    exact validDigits_iff D
  · obtain ⟨n, rfl⟩ := Nat.exists_eq_add_one.mpr hm
    exact fullWeight_last n
  · obtain ⟨n, rfl⟩ := Nat.exists_eq_add_one.mpr (show 0 < m by omega)
    exact fullWeight_of_lt hi

/-! ## The round trip (R125) -/

/-- The last digit has weight 1, so exactly one digit brings the sum of a payload to 0 mod 10. -/
theorem validDigits_concat_iff (p : List Digit) (d : Digit) :
    validDigits (p ++ [d]) = true ↔ d = checkDigit p := by
  have := d.isLt
  rw [validDigits_iff, fullSum_concat, Fin.ext_iff, checkDigit_val]
  omega

/-- Settles O7: a completed string validates, and the sum of a payload fixes the digit that completes it. -/
theorem checkDigitRoundTrip : Obligations.CheckDigitRoundTrip := by
  unfold Obligations.CheckDigitRoundTrip
  exact ⟨validDigits_append_checkDigit, validDigits_concat_iff⟩

/-! ## Leading zeros (R129) -/

/-- Leading zeros add nothing, and weights counted from the right end do not move with them. -/
theorem weightedSum_zeros_append {v w : Nat → Nat} {k : Nat} (p : List Digit) (h : ∀ i, v (k + i) = w i) :
    weightedSum v 0 (List.replicate k 0 ++ p) = weightedSum w 0 p := by
  rw [weightedSum_append, weightedSum_zeros, List.length_replicate, Nat.zero_add, Nat.zero_add]
  exact weightedSum_congr fun i _ => by rw [h, Nat.zero_add]

theorem payloadWeight_add_left (k n i : Nat) : payloadWeight (k + n) (k + i) = payloadWeight n i := by
  rw [payloadWeight, payloadWeight, show k + n - 1 - (k + i) = n - 1 - i by omega]

theorem fullWeight_add_left (k m i : Nat) : fullWeight (k + m) (k + i) = fullWeight m i := by
  rw [fullWeight, fullWeight, show k + m - 1 - (k + i) = m - 1 - i by omega]

theorem payloadSum_zeros_append (k : Nat) (p : List Digit) :
    payloadSum (List.replicate k 0 ++ p) = payloadSum p := by
  rw [payloadSum, List.length_append, List.length_replicate]
  exact weightedSum_zeros_append p (payloadWeight_add_left k p.length)

theorem fullSum_zeros_append (k : Nat) (d : List Digit) : fullSum (List.replicate k 0 ++ d) = fullSum d := by
  rw [fullSum, List.length_append, List.length_replicate]
  exact weightedSum_zeros_append d (fullWeight_add_left k d.length)

theorem checkDigit_zeros_append (k : Nat) (p : List Digit) :
    checkDigit (List.replicate k 0 ++ p) = checkDigit p := by
  rw [Fin.ext_iff, checkDigit_val, checkDigit_val, payloadSum_zeros_append]

theorem validDigits_zeros_append (k : Nat) (d : List Digit) :
    validDigits (List.replicate k 0 ++ d) = validDigits d := by
  rw [validDigits, fullSum_zeros_append, validDigits]

/-- Settles O8: both sums stay, and the check digit and validation are functions of them. -/
theorem leadingZerosIgnored : Obligations.LeadingZerosIgnored := by
  unfold Obligations.LeadingZerosIgnored
  exact fun k P => ⟨checkDigit_zeros_append k P, validDigits_zeros_append k P⟩

/-! ## The largest sums (R126) -/

/-- Among the strings of one length nines have the largest weighted sum, whatever the weights. -/
theorem weightedSum_le_nines (weight : Nat → Nat) (i : Nat) (ds : List Digit) :
    weightedSum weight i ds ≤ weightedSum weight i (List.replicate ds.length 9) := by
  induction ds generalizing i with
  | nil => exact Nat.le_refl _
  | cons d ds ih =>
    have hdigit : d.val ≤ 9 := Nat.le_of_lt_succ d.isLt
    exact Nat.add_le_add (Nat.mul_le_mul_right (weight i) hdigit) (ih (i + 1))

theorem payloadSum_le_nines {n : Nat} {p : List Digit} (h : p.length = n) :
    payloadSum p ≤ payloadSum (List.replicate n 9) := by
  subst h
  rw [payloadSum, payloadSum, List.length_replicate]
  exact weightedSum_le_nines _ 0 p

theorem fullSum_le_nines {m : Nat} {d : List Digit} (h : d.length = m) :
    fullSum d ≤ fullSum (List.replicate m 9) := by
  subst h
  rw [fullSum, fullSum, List.length_replicate]
  exact weightedSum_le_nines _ 0 d

/-- Settles O9: nines bound the sums of their length, and their own four sums are computed. -/
theorem checksumSumsFitEightBits : Obligations.ChecksumSumsFitEightBits := by
  unfold Obligations.ChecksumSumsFitEightBits
  exact ⟨fun _ h => payloadSum_le_nines h, fun _ h => payloadSum_le_nines h, fun _ h => fullSum_le_nines h,
    fun _ h => fullSum_le_nines h, rfl, rfl, rfl, rfl⟩

/-! ## Transpositions (R128) -/

/-- Two neighbours have the weights 1 and 3, in one order or the other (R123). -/
theorem fullWeight_adjacent {m i : Nat} (h : i + 1 < m) :
    fullWeight m i = 1 ∧ fullWeight m (i + 1) = 3 ∨ fullWeight m i = 3 ∧ fullWeight m (i + 1) = 1 := by
  unfold fullWeight
  by_cases heven : (m - 1 - i) % 2 = 0
  · exact .inl ⟨if_pos heven, if_neg (by omega)⟩
  · exact .inr ⟨if_neg heven, if_pos (by omega)⟩

/-- Swapping two neighbours that differ by 5 moves the sum by 10: their weights differ by 2. -/
theorem fullSum_swap_mod {a b : Digit} (l r : List Digit) (h : a.val + 5 = b.val ∨ b.val + 5 = a.val) :
    fullSum (l ++ a :: b :: r) % 10 = fullSum (l ++ b :: a :: r) % 10 := by
  have hinside : l.length + 1 < l.length + (r.length + 1 + 1) := by omega
  simp only [fullSum, weightedSum_append, weightedSum_cons, List.length_append, List.length_cons, Nat.zero_add]
  obtain ⟨hi, hj⟩ | ⟨hi, hj⟩ := fullWeight_adjacent hinside
  · rw [hi, hj]
    omega
  · rw [hi, hj]
    omega

/-- Settles O10: the two sums agree mod 10. -/
theorem transpositionByFiveUnseen : Obligations.TranspositionByFiveUnseen := by
  unfold Obligations.TranspositionByFiveUnseen
  intro l r a b h
  rw [validDigits, validDigits, fullSum_swap_mod l r h]

/-! ## COMPUTE and VALIDATE complete (R104, R109, R127, R128) -/

/-- A pending command whose function succeeds completes with its result registers (R109). -/
theorem exec_pending_ok {i : Instr} {eval : Operands → CmdOutcome} {s : State} {res : CmdResult}
    (hf : commandFunction i = some eval) (hp : Pending i s) (hr : eval (operandsOf s.pend) = .ok res) :
    exec i s = .next (completed s true 0 (resultsOf res)) := by
  rw [exec_pending hf hp, complete_ok hr, completed]

theorem resultsOf_check_only (d : Digit) :
    resultsOf { check := some d } = { Results.zero with check := BitVec.ofNat 4 d.val } := rfl

theorem resultsOf_valid_only (b : Bool) :
    resultsOf { valid := some b } = { Results.zero with valid := b } := rfl

section
variable {s : State} {D : List Digit}

theorem evalCompute_of_holds (hlen : latchedLen s = payload s.pend.sym) (h : LatchHolds s D) :
    evalCompute (operandsOf s.pend) = .ok { check := some (checkDigit D) } := by
  have h16 : latchedLen s ≤ 16 := latchedLen_le_of_admitted (i := .compute) rfl hlen
  rw [evalCompute, checkInput_of_holds ((isPayloadLength_iff s).mpr hlen) h16 h]

theorem evalValidate_of_holds (hlen : latchedLen s = total s.pend.sym) (h : LatchHolds s D) :
    evalValidate (operandsOf s.pend) = .ok { valid := some (validDigits D) } := by
  have h16 : latchedLen s ≤ 16 := latchedLen_le_of_admitted (i := .validate) rfl hlen
  rw [evalValidate, checkInput_of_holds ((isTotalLength_iff s).mpr hlen) h16 h]

end

/-- Settles O30: the latched digits pass the input check, and the only field COMPUTE produces is their check digit. -/
theorem computeCompletes : Obligations.ComputeCompletes := by
  unfold Obligations.ComputeCompletes
  intro s P hp hlen hholds
  rw [exec_pending_ok rfl hp (evalCompute_of_holds hlen hholds), resultsOf_check_only, checkDigit_val,
    payloadSum_eq_sum]

/-- Settles O31: the latched digits pass the input check, and the only field VALIDATE produces is whether their sum is
0 mod 10. -/
theorem validateCompletes : Obligations.ValidateCompletes := by
  unfold Obligations.ValidateCompletes
  intro s D hp hlen hholds
  rw [exec_pending_ok rfl hp (evalValidate_of_holds hlen hholds), resultsOf_valid_only, ← fullSum_eq_sum,
    validDigits_eq_decide]

end Sys2Proof.Machine

/-! The digit normalizer (R140 to R142). -/

namespace Sys2Proof.Machine

/-! ## The padding (R140, R142) -/

/-- Both cases of the padding as one: no zeros are missing from PAYLOAD(s) digits up. -/
theorem padToPayload_eq (r : List Digit) (sym : Symbology) :
    padToPayload r sym = List.replicate (payload sym - r.length) 0 ++ r := by
  unfold padToPayload
  split
  next h => rw [Nat.sub_eq_zero_of_le h, List.replicate_zero, List.nil_append]
  next => rfl

theorem padToPayload_length (r : List Digit) (sym : Symbology) :
    (padToPayload r sym).length = max (payload sym) r.length := by
  rw [padToPayload_eq, List.length_append, List.length_replicate]
  omega

/-- A string with nothing to pad is its own padding (R142). -/
theorem padToPayload_of_le {r : List Digit} {sym : Symbology} (h : payload sym ≤ r.length) :
    padToPayload r sym = r := by
  rw [padToPayload, if_pos h]

theorem padToPayload_idem (r : List Digit) (sym : Symbology) :
    padToPayload (padToPayload r sym) sym = padToPayload r sym :=
  padToPayload_of_le (by rw [padToPayload_length]; exact Nat.le_max_left ..)

/-- Normalization of an admitted string is its padding. -/
theorem normalizeDigits_of_le {r : List Digit} {sym : Symbology} (h : r.length ≤ total sym) :
    normalizeDigits r sym = .ok (padToPayload r sym) := by
  rw [normalizeDigits, if_neg (Nat.not_lt_of_le h)]

/-- Settles O11: an admitted string is normalized to its padding, which only prepends zeros, and leading zeros change
neither a check digit nor a validation (R129). -/
theorem normalizePads : Obligations.NormalizePads := by
  unfold Obligations.NormalizePads
  intro r sym hr
  have hn := normalizeDigits_of_le hr
  have hlen := padToPayload_length r sym
  have htotal := payload_add_one sym
  have hpad := padToPayload_eq r sym
  refine ⟨padToPayload r sym, hn, fun h => by omega, fun h => by omega, ?_, ⟨_, hpad⟩, ?_, ?_⟩
  · rw [normalizeDigits_of_le (normalizeDigits_length_le hn), padToPayload_idem]
  · rw [hpad, checkDigit_zeros_append]
  · rw [hpad, validDigits_zeros_append]

/-! ## NORMALIZE completes (R104, R109, R141) -/

theorem evalNormalize_of_holds {s : State} {r : List Digit} (hlen : latchedLen s ≤ total s.pend.sym)
    (h : LatchHolds s r) :
    evalNormalize (operandsOf s.pend) = .ok { digits := some (padToPayload r s.pend.sym) } := by
  have h16 : latchedLen s ≤ 16 := latchedLen_le_of_admitted (i := .normalize) rfl hlen
  have hn : normalizeDigits r (operandsOf s.pend).sym = .ok (padToPayload r s.pend.sym) :=
    normalizeDigits_of_le (h.1.trans_le hlen)
  rw [evalNormalize, checkInput_of_holds ((isAtMostTotal_iff s).mpr hlen) h16 h]
  simp only [hn]

/-- Settles O32: the latched digits pass the input check, and the only field NORMALIZE produces is their padding. -/
theorem normalizeCompletes : Obligations.NormalizeCompletes := by
  unfold Obligations.NormalizeCompletes
  intro s r hp hlen hholds
  have hdigits : (padToPayload r s.pend.sym).length ≤ 13 :=
    (normalizeDigits_length_le (normalizeDigits_of_le (hholds.1.trans_le hlen))).trans (total_le _)
  refine ⟨_, exec_pending_ok rfl hp (evalNormalize_of_holds hlen hholds), rfl, rfl, rfl, rfl, ?_, fun k => ?_⟩
  · exact (resultsOf_outLen_toNat (res := { digits := some _ }) hdigits).trans (padToPayload_length r s.pend.sym)
  · rw [← padToPayload_eq]
    exact packDigits_toNat _ k

end Sys2Proof.Machine

/-! The symbol by its index, and the commands that emit it (R150 to R164). -/

namespace Sys2Proof.Machine

/-! ## Zones and groups (R150, R156) -/

/-- Parts of one width follow each other at the multiples of that width. -/
theorem flatMap_getElem?_of_length {α β : Type} {f : α → List β} {w : Nat} (hf : ∀ x, (f x).length = w)
    (l : List α) (j : Nat) {b : Nat} (hb : b < w) : (l.flatMap f)[w * j + b]? = l[j]?.bind fun x => (f x)[b]? := by
  induction l generalizing j with
  | nil => simp
  | cons x l ih =>
    rw [List.flatMap_cons]
    cases j with
    | zero =>
      rw [List.getElem?_append_left (by rw [hf]; omega), Nat.mul_zero, Nat.zero_add]
      rfl
    | succ j =>
      rw [Nat.mul_succ, List.getElem?_append_right (by rw [hf]; omega), hf, List.getElem?_cons_succ, ← ih j]
      congr 1
      omega

/-- Module `b` of pattern `j` of a data group (R156, R159). -/
theorem group_getElem? (pattern : Nat → BitVec 7) {j b : Nat} (hj : j < 6) (hb : b < 7) :
    (groupPositions.flatMap fun j => patternModules (pattern j))[7 * j + b]? =
      some ((pattern j).getLsbD (6 - b)) := by
  have hpos : groupPositions[j]? = some j := List.getElem?_range hj
  rw [flatMap_getElem?_of_length (fun _ => patternModules_length _) _ _ hb, hpos]
  exact patternModules_getElem? _ hb

/-- Inside a zone a symbol is that zone. -/
theorem emitSymbol_getElem?_zone {e : List Digit} {pre zone post : List Bool}
    (hsplit : emitSymbol e = pre ++ zone ++ post) {i : Nat} (hi : i < zone.length) :
    (emitSymbol e)[pre.length + i]? = zone[i]? := by
  rw [hsplit, List.append_assoc, List.getElem?_append_right (Nat.le_add_right ..), Nat.add_sub_cancel_left,
    List.getElem?_append_left hi]

section
variable (D : List Digit) (sym : Symbology)

theorem encodeSymbol_getElem?_left {j b : Nat} (hj : j < 6) (hb : b < 7) :
    (encodeSymbol D sym)[7 + 7 * j + b]? = some ((leftPattern (effective D sym) j).getLsbD (6 - b)) := by
  have hsplit : emitSymbol (effective D sym) = (quietZone ++ sideGuard) ++ leftGroup (effective D sym) ++
      (middleGuard ++ rightGroup (effective D sym) ++ sideGuard ++ quietZone) := by
    simp only [emitSymbol, List.append_assoc]
  have hi : 7 * j + b < (leftGroup (effective D sym)).length := by rw [leftGroup_length]; omega
  rw [Nat.add_assoc]
  exact (emitSymbol_getElem?_zone hsplit hi).trans (group_getElem? _ hj hb)

theorem encodeSymbol_getElem?_right {j b : Nat} (hj : j < 6) (hb : b < 7) :
    (encodeSymbol D sym)[54 + 7 * j + b]? = some ((rightPattern (effective D sym) j).getLsbD (6 - b)) := by
  have hi : 7 * j + b < (rightGroup (effective D sym)).length := by rw [rightGroup_length]; omega
  rw [Nat.add_assoc]
  exact (emitSymbol_getElem?_zone (List.append_assoc ..) hi).trans (group_getElem? _ hj hb)

theorem encodeSymbol_getElem?_leadingQuiet {i : Nat} (hi : i < 4) : (encodeSymbol D sym)[i]? = some false := by
  have hsplit : emitSymbol (effective D sym) = [] ++ quietZone ++ (sideGuard ++ leftGroup (effective D sym) ++
      middleGuard ++ rightGroup (effective D sym) ++ sideGuard ++ quietZone) := by
    simp only [emitSymbol, List.append_assoc, List.nil_append]
  have hzone := emitSymbol_getElem?_zone hsplit hi
  rw [List.length_nil, Nat.zero_add] at hzone
  exact hzone.trans (List.getElem?_replicate_of_lt hi)

theorem encodeSymbol_getElem?_trailingQuiet {i : Nat} (hi : i < 4) : (encodeSymbol D sym)[99 + i]? = some false := by
  have hsplit : emitSymbol (effective D sym) = (quietZone ++ sideGuard ++ leftGroup (effective D sym) ++ middleGuard ++
      rightGroup (effective D sym) ++ sideGuard) ++ quietZone ++ [] := by
    rw [List.append_nil]; rfl
  exact (emitSymbol_getElem?_zone hsplit hi).trans (List.getElem?_replicate_of_lt hi)

theorem encodeSymbol_length : (encodeSymbol D sym).length = 103 := rfl

end

/-- Settles O12: the quiet zones and the data groups by their lemmas; the eleven modules of the guards stand at fixed
indices and do not depend on the digits, so they compute. -/
theorem symbolClosedForm : Obligations.SymbolClosedForm := by
  unfold Obligations.SymbolClosedForm
  intro D sym
  refine ⟨fun i hi => ?_, fun i hlo hhi => ?_, rfl, rfl, rfl, rfl, rfl, rfl, rfl, rfl, rfl, rfl, rfl,
    fun j b => encodeSymbol_getElem?_left D sym, fun j b => encodeSymbol_getElem?_right D sym⟩
  · rw [List.getD_eq_getElem?_getD, encodeSymbol_getElem?_leadingQuiet D sym (Nat.lt_succ_of_le hi)]
    rfl
  · obtain ⟨k, rfl⟩ := Nat.exists_eq_add_of_le hlo
    rw [List.getD_eq_getElem?_getD, encodeSymbol_getElem?_trailingQuiet D sym (by omega)]
    rfl

/-! ## What every symbol has in common (R164) -/

/-- A left pattern is an L or a G code, and both kinds start with a space and end with a bar (R45). -/
theorem leftPattern_ends (e : List Digit) (j : Nat) :
    (leftPattern e j).getLsbD 6 = false ∧ (leftPattern e j).getLsbD 0 = true := by
  obtain ⟨hl, hg, -⟩ := tableProperties
  unfold leftPattern
  split
  · exact ⟨(hg _).1, (hg _).2.1⟩
  · exact ⟨(hl _).1, (hl _).2.1⟩

theorem rightPattern_ends (e : List Digit) (j : Nat) :
    (rightPattern e j).getLsbD 6 = true ∧ (rightPattern e j).getLsbD 0 = false := by
  obtain ⟨-, -, hr, -⟩ := tableProperties
  exact hr _

/-- The fourth word of the packed modules: seven of its bits are modules, the others lie beyond them. -/
theorem packModules_fourthWord (ms : List Bool) :
    (packModules ms).extractLsb' 96 32 = ((packModules ms).extractLsb' 96 7).setWidth 32 := by
  apply BitVec.eq_of_getLsbD_eq
  intro i hi
  rw [BitVec.getLsbD_setWidth, BitVec.getLsbD_extractLsb', BitVec.getLsbD_extractLsb', getLsbD_packModules]
  by_cases h : i < 7
  · simp [h, hi]
  · simp [h, show ¬ 96 + i < 103 by omega]

/-- Settles O13: the ends of a pattern are its modules 0 and 6, and the packed ends of the symbol are known. -/
theorem symbolStructure : Obligations.SymbolStructure := by
  unfold Obligations.SymbolStructure
  intro D sym
  refine ⟨encodeSymbol_length D sym, fun j hj => ?_, ?_, packModules_encodeSymbol_leading D sym⟩
  · obtain ⟨hleftFirst, hleftLast⟩ := leftPattern_ends (effective D sym) j
    obtain ⟨hrightFirst, hrightLast⟩ := rightPattern_ends (effective D sym) j
    have hleft := fun b => encodeSymbol_getElem?_left D sym (b := b) hj
    have hright := fun b => encodeSymbol_getElem?_right D sym (b := b) hj
    refine ⟨?_, ?_, ?_, ?_⟩
    · rw [← hleftFirst]
      exact hleft 0 (by decide)
    · rw [← hleftLast, show 13 + 7 * j = 7 + 7 * j + 6 by omega]
      exact hleft 6 (by decide)
    · rw [← hrightFirst]
      exact hright 0 (by decide)
    · rw [← hrightLast, show 60 + 7 * j = 54 + 7 * j + 6 by omega]
      exact hright 6 (by decide)
  · rw [packModules_fourthWord, packModules_encodeSymbol_trailing]
    rfl

/-! ## ENCODE completes (R104, R109, R161) -/

theorem evalEncode_of_holds {s : State} {D : List Digit} (hlen : latchedLen s = total s.pend.sym)
    (h : LatchHolds s D) : evalEncode (operandsOf s.pend) = .ok { modules := some (encodeSymbol D s.pend.sym) } := by
  have h16 : latchedLen s ≤ 16 := latchedLen_le_of_admitted (i := .encode) rfl hlen
  rw [evalEncode, checkInput_of_holds ((isTotalLength_iff s).mpr hlen) h16 h]
  rfl

/-- Settles O33: the latched digits pass the input check, and the only field ENCODE produces is their symbol. -/
theorem encodeCompletes : Obligations.EncodeCompletes := by
  unfold Obligations.EncodeCompletes
  intro s D hp hlen hholds
  refine ⟨_, exec_pending_ok rfl hp (evalEncode_of_holds hlen hholds), rfl, fun i hi => ?_⟩
  exact (getLsbD_packModules (encodeSymbol D s.pend.sym) i).trans (by rw [decide_eq_true hi, Bool.true_and])

/-! ## RUN under both symbologies (R163, R180) -/

section
variable {r : List Digit} {sym : Symbology} (h : r.length ≤ payload sym)
include h

theorem padToPayload_length_of_le : (padToPayload r sym).length = payload sym :=
  (padToPayload_length r sym).trans (max_eq_left h)

theorem padToPayload_concat_length (d : Digit) : (padToPayload r sym ++ [d]).length = total sym := by
  rw [List.length_append, padToPayload_length_of_le h]
  exact payload_add_one sym

theorem lastDigit_padToPayload_concat (d : Digit) : lastDigit (padToPayload r sym ++ [d]) sym = d := by
  have hlen := padToPayload_length_of_le h
  show List.getD _ (payload sym) 0 = d
  rw [List.getD_append_right _ _ _ _ hlen.le, hlen, Nat.sub_self]
  rfl

/-- The checksum stage appends the check digit, which the padding leaves as it is (R129, R181). -/
theorem checksumStage_padToPayload :
    checksumStage (padToPayload r sym) sym = .ok (padToPayload r sym ++ [checkDigit r]) := by
  have hshort : (padToPayload r sym).length ≠ total sym := by
    rw [padToPayload_length_of_le h, ← payload_add_one sym]
    exact (Nat.succ_ne_self _).symm
  have hcheck : checkDigit (padToPayload r sym) = checkDigit r := by
    rw [padToPayload_eq, checkDigit_zeros_append]
  rw [checksumStage_eq, if_neg hshort, hcheck]

end

/-- RUN on a payload completes it with its check digit (R180). -/
theorem evalRun_of_holds_payload {s : State} {r : List Digit} {sym : Symbology} (hsym : s.pend.sym = sym)
    (hlen : latchedLen s ≤ payload sym) (h : LatchHolds s r) :
    evalRun (operandsOf s.pend) = .ok
      { check := some (checkDigit r), valid := some true,
        digits := some (padToPayload r sym ++ [checkDigit r]),
        modules := some (encodeSymbol (padToPayload r sym ++ [checkDigit r]) sym) } := by
  subst hsym
  have hadmitted : latchedLen s ≤ total s.pend.sym := hlen.trans (Nat.sub_le ..)
  have h16 : latchedLen s ≤ 16 := latchedLen_le_of_admitted (i := .run) rfl hadmitted
  have hr : r.length ≤ payload s.pend.sym := h.1.trans_le hlen
  have hsym : (operandsOf s.pend).sym = s.pend.sym := rfl
  rw [evalRun, checkInput_of_holds ((isAtMostTotal_iff s).mpr hadmitted) h16 h, hsym]
  simp only [normalizeDigits_of_le (h.1.trans_le hadmitted), checksumStage_padToPayload hr,
    lastDigit_padToPayload_concat hr]

/-- UPC-A pads to one digit less and encodes behind a leading zero (R163). -/
theorem effective_padToPayload {r : List Digit} (h : r.length ≤ 11) (d : Digit) :
    effective (padToPayload r .upca ++ [d]) .upca = effective (padToPayload r .ean13 ++ [d]) .ean13 := by
  have hzeros : payload .ean13 - r.length = payload .upca - r.length + 1 := Nat.succ_sub h
  rw [padToPayload_eq, padToPayload_eq, hzeros]
  rfl

/-- Equal digit characters are the characters of the same digits. -/
theorem latchHolds_both {s s' : State} (hlen : latchedLen s = latchedLen s') (h16 : latchedLen s ≤ 16)
    (heq : ∀ k, k < latchedLen s → latchedChar s k = latchedChar s' k)
    (hdigits : ∀ k, k < latchedLen s → isDigitChar (latchedChar s k) = true) :
    ∃ r, LatchHolds s r ∧ LatchHolds s' r := by
  obtain ⟨r, hr⟩ | ⟨k, hk, hbad⟩ := holds_or_bad s h16
  · refine ⟨r, hr, hr.1.trans hlen, fun k hk => ?_⟩
    rw [← heq k (hr.1 ▸ hk)]
    exact hr.2 k hk
  · exact absurd (hdigits k hk) (by rw [hbad]; decide)

/-- Settles O14: both RUNs complete the same digits with the same check digit, and the completed strings have the same
effective string. -/
theorem upcaRunMatchesEan13Run : Obligations.UpcaRunMatchesEan13Run := by
  unfold Obligations.UpcaRunMatchesEan13Run
  intro s s' hp hp' hsym hsym' hlen h11 heq hdigits
  obtain ⟨r, hr, hr'⟩ := latchHolds_both hlen (h11.trans (by decide)) heq hdigits
  have hupca : latchedLen s ≤ payload .upca := h11
  have hean13 : latchedLen s' ≤ payload .ean13 := hlen ▸ h11.trans (by decide)
  refine ⟨_, _, exec_pending_ok rfl hp (evalRun_of_holds_payload hsym hupca hr),
    exec_pending_ok rfl hp' (evalRun_of_holds_payload hsym' hean13 hr'), rfl, ?_, ?_, ?_⟩
  · exact congrArg (fun e => packModules (emitSymbol e)) (effective_padToPayload (hr.1.trans_le h11) (checkDigit r))
  · exact congrArg (BitVec.ofNat 4) (padToPayload_concat_length (hr.1.trans_le hupca) (checkDigit r))
  · exact congrArg (BitVec.ofNat 4) (padToPayload_concat_length (hr'.1.trans_le hean13) (checkDigit r))

end Sys2Proof.Machine

/-! The pipeline (R180 to R186): RUN on a payload, on a full string and on a mismatch; the reserved codes and NOP. -/

namespace Sys2Proof.Machine

/-! ## RUN completes (R180 to R183) -/

/-- What RUN produces from a full string with the check digit `d` (R180, R183). -/
def runProduct (d : Digit) (F : List Digit) (sym : Symbology) : CmdResult :=
  { check := some d, valid := some true, digits := some F, modules := some (encodeSymbol F sym) }

/-- RUN on a full string, to which nothing is padded, is its validation (R181). -/
theorem evalRun_of_holds_full {s : State} {F : List Digit} (hlen : latchedLen s = total s.pend.sym)
    (h : LatchHolds s F) :
    evalRun (operandsOf s.pend) =
      if validDigits F then .ok (runProduct (lastDigit F s.pend.sym) F s.pend.sym) else .error .checksumMismatch := by
  have hF : F.length = total s.pend.sym := h.1.trans hlen
  have h16 : latchedLen s ≤ 16 := latchedLen_le_of_admitted (i := .run) rfl hlen.le
  have hsym : (operandsOf s.pend).sym = s.pend.sym := rfl
  have hpad : padToPayload F s.pend.sym = F := padToPayload_of_le (hF ▸ Nat.sub_le ..)
  rw [evalRun, checkInput_of_holds ((isAtMostTotal_iff s).mpr hlen.le) h16 h, hsym]
  simp only [normalizeDigits_of_le hF.le, hpad, checksumStage_eq, if_pos hF]
  cases validDigits F <;> rfl

/-- A pending RUN that comes to the full string `F` reports it with its check digit and its symbol (R109). -/
theorem exec_run_of_product {s : State} {d : Digit} {F : List Digit} (hp : Pending .run s)
    (hrun : evalRun (operandsOf s.pend) = .ok (runProduct d F s.pend.sym)) (hF : F.length = total s.pend.sym) :
    ∃ t, exec .run s = .next t ∧ t = completed s true 0 t.results ∧
      t.results.check.toNat = d.val ∧ t.results.valid = true ∧ t.results.outLen.toNat = total s.pend.sym ∧
      (∀ k : Fin 13, t.results.odig[k].toNat = (F.getD k.val 0).val) ∧
      (∀ i, i < 103 → t.results.modules.getLsbD i = (encodeSymbol F s.pend.sym).getD i false) := by
  refine ⟨_, exec_pending_ok rfl hp hrun, rfl, digitCell_toNat d, rfl, ?_, packDigits_toNat F, fun i hi => ?_⟩
  · exact (resultsOf_outLen_toNat (res := runProduct d F s.pend.sym) (hF.trans_le (total_le _))).trans hF
  · exact (getLsbD_packModules (encodeSymbol F s.pend.sym) i).trans (by rw [decide_eq_true hi, Bool.true_and])

/-- Settles O34: the string RUN comes to is the padded payload with its check digit. -/
theorem runCompletesPayload : Obligations.RunCompletesPayload := by
  unfold Obligations.RunCompletesPayload
  intro s r F hp hlen hholds hF
  rw [← padToPayload_eq] at hF
  subst hF
  exact exec_run_of_product hp (evalRun_of_holds_payload rfl hlen hholds)
    (padToPayload_concat_length (hholds.1.trans_le hlen) (checkDigit r))

/-- Settles O35: a full string that validates is the string RUN comes to. -/
theorem runCompletesFullString : Obligations.RunCompletesFullString := by
  unfold Obligations.RunCompletesFullString
  intro s F hp hlen hholds hvalid
  have hrun := evalRun_of_holds_full hlen hholds
  rw [if_pos hvalid] at hrun
  exact exec_run_of_product hp hrun (hholds.1.trans hlen)

/-! ## RUN's errors (R181, R182, R201) -/

/-- Settles O36: RUN on a full string that does not validate fails with ChecksumMismatchError. -/
theorem runRejectsMismatch : Obligations.RunRejectsMismatch := by
  unfold Obligations.RunRejectsMismatch
  intro s F hp hlen hholds hvalid
  have hrun := evalRun_of_holds_full hlen hholds
  rw [if_neg (by rw [hvalid]; exact Bool.false_ne_true)] at hrun
  exact exec_pending_error rfl hp hrun

/-- Settles O41: a success has code 0; a failure is never that of RUN's self-check (R125), the one kind with code 4. -/
theorem runNeverReportsCodeFour : Obligations.RunNeverReportsCodeFour := by
  unfold Obligations.RunNeverReportsCodeFour
  intro s hp
  refine ⟨complete evalRun s, exec_pending rfl hp, ?_⟩
  obtain ⟨res, -, hc⟩ | ⟨kind, hkind, hc⟩ := complete_cases evalRun s
  · rw [hc, completed_err]
    decide
  · have hkindLegal : OutcomeLegal (.error kind) := hkind ▸ evalRun_legal (operandsOf s.pend)
    obtain ⟨⟨-, -, -, hne⟩, -⟩ := legal_completed_error s hkindLegal
    rwa [hc]

/-! ## NOP and the reserved codes (R184, R185) -/

theorem decode_eq_nop {w : Word} (h : ∀ b, b < 3 → w.getLsbD b = false) : decode w = .nop := by
  have hzero : opField w = opField 0 := opField_eq_iff.mpr fun b hb => (h b hb).trans BitVec.getLsbD_zero.symm
  exact decode_eq_iff_opField_eq.mpr hzero

/-- Settles O29: the four clauses are the decoder on such a word, NOP on an idle and on a busy unit, and the host's
turn at the CMD write, where a busy unit drops it. -/
theorem nopStoresZeroOnly : Obligations.NopStoresZeroOnly := by
  unfold Obligations.NopStoresZeroOnly
  have hidle (s : State) (hb : s.busy = false) : exec .nop s = .next { s with op := 0 } := by
    rw [exec_nop, if_neg (by simp [hb]), setOp]
  refine ⟨fun w => decode_eq_nop, hidle, fun s hb => by rw [exec_nop, if_pos hb], ?_⟩
  intro s a w rest hturn hi ha hw
  cases hb : s.busy with
  | true =>
    have hstep : step s = .next (hostPassed s rest) :=
      (step_input hturn hi).trans (hostWrite_busy (s := hostPassed s rest) hb ha rfl)
    exact ⟨_, hstep, rfl⟩
  | false =>
    have hstep : step s = exec .nop (hostPassed s rest) := decode_eq_nop hw ▸ step_cmd hb hi ha
    exact ⟨_, hstep.trans (hidle _ hb), rfl⟩

/-- Settles O37: the function of a reserved code fails whatever the operands. -/
theorem reservedCompletesIllegal : Obligations.ReservedCompletesIllegal := by
  unfold Obligations.ReservedCompletesIllegal
  exact ⟨fun _ hp => exec_pending_error (eval := evalReserved) rfl hp rfl,
    fun _ hp => exec_pending_error (eval := evalReserved) rfl hp rfl⟩

end Sys2Proof.Machine

/-! The order of the error causes (R203). -/

namespace Sys2Proof.Machine

/-- A command that reads input and finds no error in it succeeds; only RUN has an error cause of its own that can hold,
a full string that does not validate (R201, R203). -/
theorem commandFunction_ok_of_holds {i : Instr} {s : State} {D : List Digit} (hr : readsInput i = true)
    (hlen : lengthAdmitted i s.pend.sym (latchedLen s)) (h : LatchHolds s D)
    (hno : ¬ (i = .run ∧ latchedLen s = total s.pend.sym ∧ validDigits D = false)) :
    ∃ eval res, commandFunction i = some eval ∧ eval (operandsOf s.pend) = .ok res := by
  cases i
  case nop => cases hr
  case compute => exact ⟨_, _, rfl, evalCompute_of_holds hlen h⟩
  case validate => exact ⟨_, _, rfl, evalValidate_of_holds hlen h⟩
  case normalize => exact ⟨_, _, rfl, evalNormalize_of_holds hlen h⟩
  case encode => exact ⟨_, _, rfl, evalEncode_of_holds hlen h⟩
  case run =>
    obtain hfull | hshort := Nat.eq_or_lt_of_le hlen
    · have hvalid : validDigits D = true := eq_true_of_ne_false fun hv => hno ⟨rfl, hfull, hv⟩
      exact ⟨_, _, rfl, (evalRun_of_holds_full hfull h).trans (if_pos hvalid)⟩
    · exact ⟨_, _, rfl, evalRun_of_holds_payload rfl (Nat.le_pred_of_lt hshort) h⟩
  case reserved6 => cases hr
  case reserved7 => cases hr

/-- The code reported is that of the completion the command is known to have. -/
theorem err_eq_of_exec {i : Instr} {s t : State} {rvalid : Bool} {err : BitVec 4} {r : Results}
    (ht : exec i s = .next t) (h : exec i s = .next (completed s rvalid err r)) : t.err = err := by
  obtain rfl : t = completed s rvalid err r := Host.Outcome.next.inj (ht.symm.trans h)
  exact completed_err ..

/-- Settles O40: each error cause has its completion (O37, O38, O39, O36), in the order of R203, and with none of them
the command succeeds. -/
theorem errorPriority : Obligations.ErrorPriority := by
  unfold Obligations.ErrorPriority
  intro i s hnop hp
  obtain ⟨eval, hf⟩ := commandFunction_isSome hnop
  have ht := exec_pending hf hp
  refine ⟨complete eval s, ht, ?_, fun hr hlen => ?_, fun hr hlen hbad => ?_, fun D hr hlen hD => ?_⟩
  · obtain ⟨hreserved6, hreserved7⟩ := reservedCompletesIllegal
    rintro (rfl | rfl)
    · exact err_eq_of_exec ht (hreserved6 s hp)
    · exact err_eq_of_exec ht (hreserved7 s hp)
  · exact err_eq_of_exec ht (lengthErrorReported i s hr hp hlen)
  · exact err_eq_of_exec ht (digitErrorReported i s hr hp hlen hbad)
  · split
    next hmismatch =>
      obtain ⟨rfl, hfull, hinvalid⟩ := hmismatch
      exact err_eq_of_exec ht (runRejectsMismatch s D hp hfull hD hinvalid)
    next hno =>
      obtain ⟨eval', res, hf', hres⟩ := commandFunction_ok_of_holds hr hlen hD hno
      exact err_eq_of_exec ht (exec_pending_ok hf' hp hres)

end Sys2Proof.Machine

/-! Reset (R230). -/

namespace Sys2Proof.Machine

/-- What `resetUnit` carries over (log entry 5) is the host's, and no part of the unit. -/
theorem unitPart_resetUnit (s : State) : unitPart (resetUnit s) = State.reset := rfl

theorem step_reset {s : State} {rest : List HostInput} (hturn : engineTurn s = false)
    (hi : s.inputs = .reset :: rest) : step s = .next (resetUnit (hostPassed s rest)) := by
  rw [step_input hturn hi, hostInput]

/-- Settles O46: the step is `resetUnit`, which reads neither BUSY nor the latch. -/
theorem resetClearsUnit : Obligations.ResetClearsUnit := by
  unfold Obligations.ResetClearsUnit
  intro s rest hturn hi
  exact ⟨resetUnit (hostPassed s rest), step_reset hturn hi, unitPart_resetUnit _⟩

end Sys2Proof.Machine
